-- ==== Sys2Proof/Word.lean ====
section
/-! DEFINITION. The widths of spec/00_scope.md rule R14: the words this block adds, shifts and masks, or shows on its
bus. Counts, sizes and memory keys are natural numbers elsewhere. -/

namespace Sys2Proof

/-- Every access moves one byte (R50). -/
abbrev Byte := BitVec 8

/-- A 16-bit CPU address (R14). -/
abbrev Addr := BitVec 16

/-- An offset into the ROM store: 21 bits suffice (R8). -/
abbrev RomOffset := BitVec 21

/-- An index into `ramBanks`: 15 bits (R21, R60). -/
abbrev XramIndex := BitVec 15

/-- The 26-bit decode key `{CM, WR, A[15:0], D[7:0]}` (R80). -/
abbrev Key := BitVec 26

end Sys2Proof
end

