-- ==== Sys2Proof/Config.lean ====
section
/-! DEFINITION. What the surroundings of the block fix and the spec leaves open, as constants WITHOUT a body: no proof can
see a value of them. The parameters a run can be told (HAS_RAM, ROMB_RESET, the ROM's size) are plain data in
Machine/State.lean's `Session`. -/

namespace Sys2Proof

/-- FREE VALUE (R7, R59, D6, D18, U1, U2). The byte a collaborator answers at the `n`-th draw, when the run supplies no
answer of its own (`State.answers`). A fresh draw each time: the step passes the counter `State.draws`. Log entry 6. -/
opaque Config.freeAnswer : Nat → Byte

/-- The ROM store's contents at an offset inside its real size: an "immutable sequence of bytes" (R34, R54), the model
argument `ROM : offset → byte` of R14. Log entry 7. -/
opaque Config.romByte : RomOffset → Byte

end Sys2Proof
end

