-- ==== Sys2Proof/Syntax.lean ====
section
/-! DEFINITION. The whole syntax: the driver's operations, the bands a transaction decodes to (the "instructions" of
spec/30_encoding.md), one constructor of `Instr` per mnemonic of spec/opcode_table.json, and the script notation's
pseudo-operations. -/

namespace Sys2Proof

/-- One operation of the caller (00_scope.md R2, R11): `Read(address)`, `Write(address, value)`, `Reset(colorMode)`. -/
inductive Operation where
  | read  (a : Addr)
  | write (a : Addr) (v : Byte)
  | reset (c : Bool)
  deriving DecidableEq, Repr

/-- A decoded operation: its band with the operands of 30_encoding.md R81. The address is the raw 16-bit address
of the transaction, `v` its data byte, `c` the argument of `Reset`. -/
inductive Instr where
  /-- `RD.ROMX` (R101): the switchable ROM window. -/
  | rdRomx (a : Addr)
  /-- `RD.CVRAM` (R102): video RAM in color mode. -/
  | rdCvram (a : Addr)
  /-- `RD.XRAM` (R103): the external-RAM window. -/
  | rdXram (a : Addr)
  /-- `RD.CWRAM` (R104): switchable work RAM in color mode. -/
  | rdCwram (a : Addr)
  /-- `RD.OPENBUS` (R105): the unmapped region in non-color mode. -/
  | rdOpenbus (a : Addr)
  /-- `RD.UNUSED_FWD` (R106): the unmapped region in color mode. -/
  | rdUnusedFwd (a : Addr)
  /-- `RD.GEN` (R107): the default read. -/
  | rdGen (a : Addr)
  /-- `WR.RAMG` (R121): RAM-enable control. -/
  | wrRamg (a : Addr) (v : Byte)
  /-- `WR.ROMB` (R122): ROM bank select. -/
  | wrRomb (a : Addr) (v : Byte)
  /-- `WR.RTCSEL` (R123): real-time-clock register select, inert. -/
  | wrRtcsel (a : Addr) (v : Byte)
  /-- `WR.RAMB` (R124): RAM bank select. -/
  | wrRamb (a : Addr) (v : Byte)
  /-- `WR.LATCH` (R125): real-time-clock latch trigger, inert. -/
  | wrLatch (a : Addr) (v : Byte)
  /-- `WR.CVRAM` (R141): video RAM in color mode. -/
  | wrCvram (a : Addr) (v : Byte)
  /-- `WR.XRAM` (R142): the external-RAM window. -/
  | wrXram (a : Addr) (v : Byte)
  /-- `WR.WRAM_ECHO_UP` (R143): work RAM, mirrored 0x2000 higher. -/
  | wrWramEchoUp (a : Addr) (v : Byte)
  /-- `WR.CWRAM_ECHO_UP` (R144): switchable work RAM in color mode, with its echo copy. -/
  | wrCwramEchoUp (a : Addr) (v : Byte)
  /-- `WR.CWRAM_TOP` (R145): the top 0x200 bytes of work RAM in color mode. -/
  | wrCwramTop (a : Addr) (v : Byte)
  /-- `WR.ECHO_DOWN` (R146): the echo window, mirrored 0x2000 lower. -/
  | wrEchoDown (a : Addr) (v : Byte)
  /-- `WR.ECHO_CWRAM_DOWN` (R147): the upper echo window in color mode. -/
  | wrEchoCwramDown (a : Addr) (v : Byte)
  /-- `WR.UNUSED` (R148): the unmapped region. -/
  | wrUnused (a : Addr) (v : Byte)
  /-- `WR.GEN` (R149): the default write. -/
  | wrGen (a : Addr) (v : Byte)
  /-- `RESET` (R180). -/
  | reset (c : Bool)
  deriving DecidableEq, Repr

/-- The mnemonics of 30_encoding.md R82 and R83, and `RESET`, without operands. -/
inductive Band where
  | rdRomx | rdCvram | rdXram | rdCwram | rdOpenbus | rdUnusedFwd | rdGen
  | wrRamg | wrRomb | wrRtcsel | wrRamb | wrLatch
  | wrCvram | wrXram | wrWramEchoUp | wrCwramEchoUp | wrCwramTop | wrEchoDown | wrEchoCwramDown | wrUnused | wrGen
  | reset
  deriving DecidableEq, Repr

/-- One mask/match row of the decode table (30_encoding.md R84): a key `K` belongs to it when `K &&& mask = value`. -/
structure TableRow where
  band  : Band
  mask  : Key
  value : Key
  deriving DecidableEq, Repr

/-- The pseudo-operations of the script notation (30_encoding.md R89). -/
inductive Pseudo where
  | ramen
  | ramdis
  | romb   (n : BitVec 7)
  | ramb   (n : BitVec 2)
  | rtcsel (r : Byte)
  | latch  (v : Byte)
  deriving DecidableEq, Repr

/-- Why bytes do not decode. Every 26-bit key decodes (R86); only bytes that hold no key and no `Reset` argument
are rejected. -/
inductive DecodeError where
  /-- Neither the four bytes of a key nor the one byte of a `Reset` argument. -/
  | badLength
  /-- One of the bits 31 to 26, which no key has, is set. -/
  | bitsAboveKey
  /-- One of the bits 7 to 1 of a `Reset` argument, which has one bit, is set. -/
  | bitsAboveColorMode
  deriving DecidableEq, Repr

end Sys2Proof
end

