-- ==== Sys2Proof/WellFormed.lean ====
section
/-! DEFINITION. When an instruction is one the decoder can yield: the **Operands** line of each band's rule and the rows
of 30_encoding.md R82 and R83, for a current `CM` (`isColorMode`). Written from the tables of disjoint ranges,
independently of the decoder, which follows the source's first-match lists. -/

namespace Sys2Proof

/-- `i` is a legal band-with-operands when the mode bit is `cm`. -/
def Instr.wellFormed (cm : Bool) : Instr → Bool
  | .rdRomx a => decide (0x4000 ≤ a.toNat ∧ a.toNat < 0x8000)
  | .rdCvram a => cm && decide (0x8000 ≤ a.toNat ∧ a.toNat < 0xA000)
  | .rdXram a => decide (0xA000 ≤ a.toNat ∧ a.toNat < 0xC000)
  | .rdCwram a => cm && decide (0xD000 ≤ a.toNat ∧ a.toNat < 0xE000)
  | .rdOpenbus a => !cm && decide (0xFEA0 ≤ a.toNat ∧ a.toNat < 0xFF00)
  | .rdUnusedFwd a => cm && decide (0xFEA0 ≤ a.toNat ∧ a.toNat < 0xFF00)
  | .rdGen a =>
      decide (a.toNat < 0x4000 ∨ (0xC000 ≤ a.toNat ∧ a.toNat < 0xD000) ∨ (0xE000 ≤ a.toNat ∧ a.toNat < 0xFEA0)
        ∨ 0xFF00 ≤ a.toNat)
      || (!cm && decide ((0x8000 ≤ a.toNat ∧ a.toNat < 0xA000) ∨ (0xD000 ≤ a.toNat ∧ a.toNat < 0xE000)))
  | .wrRamg a _ => decide (a.toNat < 0x2000)
  | .wrRomb a _ => decide (0x2000 ≤ a.toNat ∧ a.toNat < 0x4000)
  | .wrRtcsel a v => decide (0x4000 ≤ a.toNat ∧ a.toNat < 0x6000) && decide (0x08 ≤ v.toNat ∧ v.toNat ≤ 0x0C)
  | .wrRamb a v => decide (0x4000 ≤ a.toNat ∧ a.toNat < 0x6000) && decide (v.toNat < 0x08 ∨ 0x0C < v.toNat)
  | .wrLatch a _ => decide (0x6000 ≤ a.toNat ∧ a.toNat < 0x8000)
  | .wrCvram a _ => cm && decide (0x8000 ≤ a.toNat ∧ a.toNat < 0xA000)
  | .wrXram a _ => decide (0xA000 ≤ a.toNat ∧ a.toNat < 0xC000)
  | .wrWramEchoUp a _ =>
      decide (0xC000 ≤ a.toNat ∧ a.toNat < 0xD000) || (!cm && decide (0xD000 ≤ a.toNat ∧ a.toNat < 0xDE00))
  | .wrCwramEchoUp a _ => cm && decide (0xD000 ≤ a.toNat ∧ a.toNat < 0xDE00)
  | .wrCwramTop a _ => cm && decide (0xDE00 ≤ a.toNat ∧ a.toNat < 0xE000)
  | .wrEchoDown a _ =>
      decide (0xE000 ≤ a.toNat ∧ a.toNat < 0xF000) || (!cm && decide (0xF000 ≤ a.toNat ∧ a.toNat < 0xFE00))
  | .wrEchoCwramDown a _ => cm && decide (0xF000 ≤ a.toNat ∧ a.toNat < 0xFE00)
  | .wrUnused a _ => decide (0xFEA0 ≤ a.toNat ∧ a.toNat < 0xFF00)
  | .wrGen a _ =>
      decide ((0xFE00 ≤ a.toNat ∧ a.toNat < 0xFEA0) ∨ 0xFF00 ≤ a.toNat)
      || (!cm && decide ((0x8000 ≤ a.toNat ∧ a.toNat < 0xA000) ∨ (0xDE00 ≤ a.toNat ∧ a.toNat < 0xE000)))
  | .reset _ => true

end Sys2Proof
end

