-- ==== Sys2Proof/Decode.lean ====
section
/-! DEFINITION. Decoding (spec/30_encoding.md): the decode key, the band of every key, the bytes an operation is laid
out in, the encoder, the decode table of R84 as data, and the script's pseudo-operations. `decodeKey` is total: there is
no illegal encoding (R86). -/

namespace Sys2Proof

/-! ### The key (R80) -/

/-- `K = {CM, WR, A[15:0], D[7:0]}`. -/
def mkKey (cm wr : Bool) (a : Addr) (d : Byte) : Key :=
  BitVec.ofNat 26 (cm.toNat * 2 ^ 25 + wr.toNat * 2 ^ 24 + a.toNat * 2 ^ 8 + d.toNat)

/-- `K[25] = CM`. -/
def Key.cm (k : Key) : Bool := k.toNat / 2 ^ 25 % 2 == 1

/-- `K[24] = WR`. -/
def Key.wr (k : Key) : Bool := k.toNat / 2 ^ 24 % 2 == 1

/-- `K[23:8] = A`. -/
def Key.addr (k : Key) : Addr := BitVec.ofNat 16 (k.toNat / 2 ^ 8)

/-- `K[7:0] = D`. -/
def Key.data (k : Key) : Byte := BitVec.ofNat 8 k.toNat

/-! ### The band of a transaction (R82, R83) -/

/-- `a` lies in the half-open range `[lo, hi)`. -/
def inRange (lo hi : Nat) (a : Addr) : Bool := decide (lo ≤ a.toNat) && decide (a.toNat < hi)

/-- The data condition of `WR.RTCSEL`: the whole byte in the closed range `[0x08, 0x0C]` (R85, R123). -/
def selectsClock (v : Byte) : Bool := decide (0x08 ≤ v.toNat) && decide (v.toNat ≤ 0x0C)

/-- Read bands, in the source's order, first match wins (R56, R82). -/
def decodeRead (cm : Bool) (a : Addr) : Instr :=
  if inRange 0x4000 0x8000 a then .rdRomx a
  else if cm && inRange 0x8000 0xA000 a then .rdCvram a
  else if inRange 0xA000 0xC000 a then .rdXram a
  else if cm && inRange 0xD000 0xE000 a then .rdCwram a
  else if inRange 0xFEA0 0xFF00 a then (if cm then .rdUnusedFwd a else .rdOpenbus a)
  else .rdGen a

/-- Write bands, in the source's order, first match wins (R57, R83). -/
def decodeWrite (cm : Bool) (a : Addr) (v : Byte) : Instr :=
  if inRange 0x0000 0x2000 a then .wrRamg a v
  else if inRange 0x2000 0x4000 a then .wrRomb a v
  else if inRange 0x4000 0x6000 a then (if selectsClock v then .wrRtcsel a v else .wrRamb a v)
  else if inRange 0x6000 0x8000 a then .wrLatch a v
  else if cm && inRange 0x8000 0xA000 a then .wrCvram a v
  else if inRange 0xA000 0xC000 a then .wrXram a v
  else if inRange 0xC000 0xDE00 a then
    (if cm && inRange 0xD000 0xDE00 a then .wrCwramEchoUp a v else .wrWramEchoUp a v)
  else if cm && inRange 0xDE00 0xE000 a then .wrCwramTop a v
  else if inRange 0xE000 0xFE00 a then
    (if cm && inRange 0xF000 0xFE00 a then .wrEchoCwramDown a v else .wrEchoDown a v)
  else if inRange 0xFEA0 0xFF00 a then .wrUnused a v
  else .wrGen a v

/-- The instruction of a key: a function of `CM`, `WR`, `A` and, for a write, `D`, and nothing else (R80). -/
def decodeKey (k : Key) : Instr :=
  if k.wr then decodeWrite k.cm k.addr k.data else decodeRead k.cm k.addr

/-- The instruction an operation is under the mode bit `cm`: the block packs the transaction with its own `CM` into a key
and decodes that (R80, R81); `Reset` is not decoded by address (R81). -/
def decodeOperation (cm : Bool) : Operation → Instr
  | .read a => decodeKey (mkKey cm false a 0)
  | .write a v => decodeKey (mkKey cm true a v)
  | .reset c => .reset c

/-! ### Bytes

The block stores no instructions, so the layout is the model's (DESIGN CHOICE, log entry 13): a key is four bytes, the
least significant first, with zeros above bit 25; the `RST` format, which has no key, is one byte holding `c` in bit 0. -/

/-- The `n` low bytes of `w`, least significant first. -/
def leBytes : Nat → Nat → List Byte
  | 0, _ => []
  | n + 1, w => BitVec.ofNat 8 w :: leBytes n (w / 256)

/-- The number whose bytes, least significant first, are given. -/
def ofLeBytes : List Byte → Nat
  | [] => 0
  | b :: bs => b.toNat + 256 * ofLeBytes bs

/-- Decode the bytes of one operation; total on any bytes, rejecting by name. -/
def decode : List Byte → Except DecodeError Instr
  | [c] => if c.toNat < 2 then .ok (.reset (c == 1)) else .error .bitsAboveColorMode
  | [b0, b1, b2, b3] =>
      if b3.toNat < 4 then .ok (decodeKey (BitVec.ofNat 26 (ofLeBytes [b0, b1, b2, b3]))) else .error .bitsAboveKey
  | _ => .error .badLength

/-! ### The encoder -/

/-- An instruction's band. -/
def Instr.band : Instr → Band
  | .rdRomx _ => .rdRomx
  | .rdCvram _ => .rdCvram
  | .rdXram _ => .rdXram
  | .rdCwram _ => .rdCwram
  | .rdOpenbus _ => .rdOpenbus
  | .rdUnusedFwd _ => .rdUnusedFwd
  | .rdGen _ => .rdGen
  | .wrRamg _ _ => .wrRamg
  | .wrRomb _ _ => .wrRomb
  | .wrRtcsel _ _ => .wrRtcsel
  | .wrRamb _ _ => .wrRamb
  | .wrLatch _ _ => .wrLatch
  | .wrCvram _ _ => .wrCvram
  | .wrXram _ _ => .wrXram
  | .wrWramEchoUp _ _ => .wrWramEchoUp
  | .wrCwramEchoUp _ _ => .wrCwramEchoUp
  | .wrCwramTop _ _ => .wrCwramTop
  | .wrEchoDown _ _ => .wrEchoDown
  | .wrEchoCwramDown _ _ => .wrEchoCwramDown
  | .wrUnused _ _ => .wrUnused
  | .wrGen _ _ => .wrGen
  | .reset _ => .reset

/-- The driver's operation that an instruction is a band of. -/
def Instr.operation : Instr → Operation
  | .rdRomx a | .rdCvram a | .rdXram a | .rdCwram a | .rdOpenbus a | .rdUnusedFwd a | .rdGen a => .read a
  | .wrRamg a v | .wrRomb a v | .wrRtcsel a v | .wrRamb a v | .wrLatch a v => .write a v
  | .wrCvram a v | .wrXram a v | .wrWramEchoUp a v | .wrCwramEchoUp a v | .wrCwramTop a v | .wrEchoDown a v
  | .wrEchoCwramDown a v | .wrUnused a v | .wrGen a v => .write a v
  | .reset c => .reset c

/-- The key of an operation under the mode bit; `Reset` has none (R81). The `D` byte of a read's key is 00 (R88). -/
def Operation.key? (cm : Bool) : Operation → Option Key
  | .read a => some (mkKey cm false a 0)
  | .write a v => some (mkKey cm true a v)
  | .reset _ => none

/-- The bytes of an operation under the mode bit. -/
def Operation.bytes (cm : Bool) : Operation → List Byte
  | .read a => leBytes 4 (mkKey cm false a 0).toNat
  | .write a v => leBytes 4 (mkKey cm true a v).toNat
  | .reset c => [if c then 1 else 0]

/-- The words of an instruction that is well formed under `cm` (R81): `CM` is part of the key, so it is an argument. -/
def encode (cm : Bool) (i : Instr) : List Byte := i.operation.bytes cm

/-- The operation that the bytes of one operation ask for. -/
def Operation.ofBytes : List Byte → Option Operation
  | [c] => if c.toNat < 2 then some (.reset (c == 1)) else none
  | [b0, b1, b2, b3] =>
      if b3.toNat < 4 then
        let k : Key := BitVec.ofNat 26 (ofLeBytes [b0, b1, b2, b3])
        some (if k.wr then .write k.addr k.data else .read k.addr)
      else none
  | _ => none

/-! ### The words of spec/opcode_table.json -/

/-- The bytes of a table word. A row of at most one byte is the `RST` format. Bits that fit in no byte of the
format are kept as one byte too many, which `decode` rejects. -/
def tableBytes (nbits w : Nat) : List Byte :=
  let n := if nbits ≤ 8 then 1 else 4
  leBytes n w ++ (if w < 256 ^ n then [] else [BitVec.ofNat 8 (w / 256 ^ n)])

/-- The instruction the decoder reads from a table word. -/
def decodeTableWord (nbits w : Nat) : Option Instr :=
  match decode (tableBytes nbits w) with
  | .ok i => some i
  | .error _ => none

/-! ### The decode table (R84) -/

/-- `K` belongs to the row when `(K & mask) == match` (R84). -/
def TableRow.holds (r : TableRow) (k : Key) : Bool := k &&& r.mask == r.value

/-- The read rows of spec/opcode_table.json (R82, R84). Band, mask, match. -/
def opcodeTableReads : List TableRow :=
  [
    ⟨.rdRomx, 0x1C00000, 0x0400000⟩,
    ⟨.rdCvram, 0x3E00000, 0x2800000⟩,
    ⟨.rdXram, 0x1E00000, 0x0A00000⟩,
    ⟨.rdCwram, 0x3F00000, 0x2D00000⟩,
    ⟨.rdOpenbus, 0x3FFE000, 0x0FEA000⟩,
    ⟨.rdOpenbus, 0x3FFC000, 0x0FEC000⟩,
    ⟨.rdUnusedFwd, 0x3FFE000, 0x2FEA000⟩,
    ⟨.rdUnusedFwd, 0x3FFC000, 0x2FEC000⟩,
    ⟨.rdGen, 0x1C00000, 0x0000000⟩,
    ⟨.rdGen, 0x3E00000, 0x0800000⟩,
    ⟨.rdGen, 0x1F00000, 0x0C00000⟩,
    ⟨.rdGen, 0x3F00000, 0x0D00000⟩,
    ⟨.rdGen, 0x1F00000, 0x0E00000⟩,
    ⟨.rdGen, 0x1F80000, 0x0F00000⟩,
    ⟨.rdGen, 0x1FC0000, 0x0F80000⟩,
    ⟨.rdGen, 0x1FE0000, 0x0FC0000⟩,
    ⟨.rdGen, 0x1FF8000, 0x0FE0000⟩,
    ⟨.rdGen, 0x1FFE000, 0x0FE8000⟩,
    ⟨.rdGen, 0x1FF0000, 0x0FF0000⟩
  ]

/-- The control-write rows of spec/opcode_table.json (R83, R84). Band, mask, match. -/
def opcodeTableControl : List TableRow :=
  [
    ⟨.wrRamg, 0x1E00000, 0x1000000⟩,
    ⟨.wrRomb, 0x1E00000, 0x1200000⟩,
    ⟨.wrRtcsel, 0x1E000FC, 0x1400008⟩,
    ⟨.wrRtcsel, 0x1E000FF, 0x140000C⟩,
    ⟨.wrRamb, 0x1E000F8, 0x1400000⟩,
    ⟨.wrRamb, 0x1E000FF, 0x140000D⟩,
    ⟨.wrRamb, 0x1E000FE, 0x140000E⟩,
    ⟨.wrRamb, 0x1E000F0, 0x1400010⟩,
    ⟨.wrRamb, 0x1E000E0, 0x1400020⟩,
    ⟨.wrRamb, 0x1E000C0, 0x1400040⟩,
    ⟨.wrRamb, 0x1E00080, 0x1400080⟩,
    ⟨.wrLatch, 0x1E00000, 0x1600000⟩
  ]

/-- The data-write rows of spec/opcode_table.json (R83, R84). Band, mask, match. -/
def opcodeTableData : List TableRow :=
  [
    ⟨.wrCvram, 0x3E00000, 0x3800000⟩,
    ⟨.wrXram, 0x1E00000, 0x1A00000⟩,
    ⟨.wrWramEchoUp, 0x1F00000, 0x1C00000⟩,
    ⟨.wrWramEchoUp, 0x3F80000, 0x1D00000⟩,
    ⟨.wrWramEchoUp, 0x3FC0000, 0x1D80000⟩,
    ⟨.wrWramEchoUp, 0x3FE0000, 0x1DC0000⟩,
    ⟨.wrCwramEchoUp, 0x3F80000, 0x3D00000⟩,
    ⟨.wrCwramEchoUp, 0x3FC0000, 0x3D80000⟩,
    ⟨.wrCwramEchoUp, 0x3FE0000, 0x3DC0000⟩,
    ⟨.wrCwramTop, 0x3FE0000, 0x3DE0000⟩,
    ⟨.wrEchoDown, 0x1F00000, 0x1E00000⟩,
    ⟨.wrEchoDown, 0x3F80000, 0x1F00000⟩,
    ⟨.wrEchoDown, 0x3FC0000, 0x1F80000⟩,
    ⟨.wrEchoDown, 0x3FE0000, 0x1FC0000⟩,
    ⟨.wrEchoCwramDown, 0x3F80000, 0x3F00000⟩,
    ⟨.wrEchoCwramDown, 0x3FC0000, 0x3F80000⟩,
    ⟨.wrEchoCwramDown, 0x3FE0000, 0x3FC0000⟩,
    ⟨.wrUnused, 0x1FFE000, 0x1FEA000⟩,
    ⟨.wrUnused, 0x1FFC000, 0x1FEC000⟩,
    ⟨.wrGen, 0x3E00000, 0x1800000⟩,
    ⟨.wrGen, 0x3FE0000, 0x1DE0000⟩,
    ⟨.wrGen, 0x1FF8000, 0x1FE0000⟩,
    ⟨.wrGen, 0x1FFE000, 0x1FE8000⟩,
    ⟨.wrGen, 0x1FF0000, 0x1FF0000⟩
  ]
/-- The 55 `BUS` rows of spec/opcode_table.json (R84). -/
def opcodeTable : List TableRow := opcodeTableReads ++ opcodeTableControl ++ opcodeTableData

/-! ### Pseudo-operations of the script notation (R89) -/

/-- The one write each pseudo-operation stands for; the address is the lowest of the port (R89, D11). -/
def Pseudo.expand : Pseudo → Operation
  | .ramen => .write 0x0000 0x0A
  | .ramdis => .write 0x0000 0x00
  | .romb n => .write 0x2000 (n.setWidth 8)
  | .ramb n => .write 0x4000 (n.setWidth 8)
  | .rtcsel r => .write 0x4000 r
  | .latch v => .write 0x6000 v

/-- `RTCSEL r` is written for `0x08 ≤ r ≤ 0x0C` only; every operand of the others is legal (R89). -/
def Pseudo.wellFormed : Pseudo → Bool
  | .rtcsel r => selectsClock r
  | _ => true

end Sys2Proof
end

