-- ==== Sys2Proof/Machine/State.lean ====
section
/-! DEFINITION. State as plain data. The block's own state is `Block`: exactly the five items of spec/10_state.md R20 and
no sixth. Beside it stand the session's constants (R14, R34), the lifecycle (R38), the inputs of the coming steps (R5, R7)
and the observable record of the last one (00_scope.md R13). -/

namespace Sys2Proof.Machine

/-- A call of the mediator that answers a byte (00_scope.md R9). -/
inductive MediatorRead where
  | generic       (a : Addr)
  | colorVideoRAM (a : Addr) (forceBank0 : Bool)
  | colorWorkRAM  (a : Addr)
  deriving DecidableEq, Repr

/-- A call of the mediator that takes a byte (00_scope.md R9). -/
inductive MediatorWrite where
  | generic       (a : Addr) (v : Byte)
  | colorVideoRAM (a : Addr) (v : Byte)
  | colorWorkRAM  (a : Addr) (v : Byte)
  deriving DecidableEq, Repr

/-- One collaborator call of a step (00_scope.md R8, R9, R13). `GetRAMSizeBytes` is not listed (log entry 9). -/
inductive Call where
  | romReadByte (off : RomOffset)
  | medRead     (r : MediatorRead)
  | medWrite    (w : MediatorWrite)
  deriving DecidableEq, Repr

/-- The diagnostic of a step (60_exceptions.md R163). -/
inductive Diag where
  /-- Every step but those below. -/
  | none
  /-- `RD.XRAM` with `ramEnabled` false (R103, R161). -/
  | xramRdDisabled
  /-- `WR.XRAM` with `ramEnabled` false (R142, R161). -/
  | xramWrDisabled
  deriving DecidableEq, Repr

/-- The observable result of one step (00_scope.md R13). An output: no rule reads it. -/
structure StepRecord where
  /-- The byte a `Read` returns; absent for every other operation. -/
  data  : Option Byte
  /-- The collaborator calls, in the order the rule performs them. -/
  calls : List Call
  diag  : Diag
  deriving DecidableEq, Repr

/-- The record before anything has been returned, called or diagnosed. -/
def StepRecord.empty : StepRecord := { data := .none, calls := [], diag := .none }

/-- A byte store: pairs (index, byte), indices strictly rising, no listed byte equal to what an unlisted index reads as
(`Memory.wf`, Machine/Ops.lean). -/
abbrev Memory := List Host.Cell

/-- The block's state: "exactly five items" (10_state.md R20). -/
structure Block where
  /-- The 32768 bytes of external RAM, by index (R21). -/
  ramBanks       : Memory
  /-- Which 0x4000-byte slice of the ROM store the ROM window shows (R22). -/
  currentRomBank : BitVec 7
  /-- Which 0x2000-byte bank of `ramBanks` the external-RAM window shows (R23). -/
  currentRamBank : BitVec 2
  /-- Gates all external-RAM reads and writes (R24). -/
  ramEnabled     : Bool
  /-- `CM`: selects the color-console address behaviours (R25). -/
  isColorMode    : Bool
  deriving DecidableEq, Repr

/-- The constants of a session: parameters of the surroundings, no state of the block (10_state.md R34, 00_scope.md R14).
No step changes them. -/
structure Session where
  /-- `HAS_RAM`: `GetRAMSizeBytes() ≠ 0` (R10, D5). -/
  hasRam    : Bool
  /-- `ROMB_RESET`: what `Reset` leaves in `currentRomBank`, 0 or 1 (R14, D1). -/
  rombReset : Fin 2
  /-- The ROM store's real size in bytes (R14); an offset at or beyond it answers any byte (R59, D6). -/
  romSize   : Nat
  deriving DecidableEq, Repr

/-- The lifecycle (10_state.md R38, R39). -/
inductive Phase where
  /-- Constructed, no `Reset` yet: a transaction has no meaning (R38, 70 R181, D8). -/
  | constructed
  /-- A `Reset` has been performed. -/
  | running
  deriving DecidableEq, Repr

/-- Why a step stops with a fault. There is NO reason: "no exception, fault, abort or trap, for any operation, argument
and state" (60_exceptions.md R160). Nobody raises one. -/
inductive Fault where
  deriving DecidableEq, Repr

/-- Why a step is refused. -/
inductive Refusal where
  /-- Raised by an arm of `exec` for an instruction not modelled yet: none is left. Safe. -/
  | notModelled (mnemonic : String)
  /-- Raised by `step` for a `Read` or `Write` issued before the first `Reset`: the spec gives it "no meaning" and has the
  model refuse it (10_state.md R38, 70 R181, 92 D8, 93 U4). Safe: nothing is claimed of such a step. -/
  | beforeFirstReset
  deriving DecidableEq, Repr


/-- The machine between two steps. -/
structure State where
  /-- The block's own state (R20). -/
  block   : Block
  /-- The session's constants (R34). -/
  session : Session
  /-- Whether the first `Reset` has happened (R38). -/
  phase   : Phase
  /-- The operations the driver has still to issue, oldest first (R5, R11). Log entry 1. -/
  pending : List Operation
  /-- The bytes the collaborators will answer, oldest first: "an input to the step" (R7). Log entry 6. -/
  answers : List Byte
  /-- How many answers have been taken: the counter of the free value `Config.freeAnswer`. Log entry 6. -/
  draws   : Nat
  /-- The observable record of the last step (R13). -/
  out     : StepRecord
  deriving DecidableEq, Repr

/-- The machine right after `Reset` (R37). The block is as the spec says, for `ROMB_RESET = 0`, the default (D1); the argument
`colorMode = false`, `HAS_RAM = true`, `romSize = 0` and the empty inputs are DESIGN CHOICES (log entry 4). -/
def State.reset : State :=
  { block   := { ramBanks := [], currentRomBank := 0, currentRamBank := 0, ramEnabled := false, isColorMode := false }
    session := { hasRam := true, rombReset := 0, romSize := 0 }
    phase   := .running
    pending := []
    answers := []
    draws   := 0
    out     := StepRecord.empty }

/-- The machine after construction and before the first `Reset` (R38): "construction sets `currentRomBank=1`"; every other
value of the block is not given, so it is an argument. -/
def State.constructed (b : Block) (ses : Session) (ops : List Operation) (ans : List Byte) (n : Nat) : State :=
  { block := { b with currentRomBank := 1 }, session := ses, phase := .constructed, pending := ops, answers := ans,
    draws := n, out := StepRecord.empty }

end Sys2Proof.Machine
end

