-- ==== Sys2Proof/Machine/Flags.lean ====
section
/-! DEFINITION. Every flag computation. The block has no arithmetic flags (spec/10_state.md R29); its one computed flag is
the RAM-enable latch. Here too: the numbers of the diagnostic codes (60_exceptions.md R163). -/

namespace Sys2Proof.Machine

/-- The enable code of a `WR.RAMG`: `(v & 0x0F) == 0x0A` (R121); `v[7:4]` is ignored (R85). -/
def ramEnableCode (v : Byte) : Bool := v &&& 0x0F == 0x0A

/-- The latch after a `WR.RAMG`: the enable code when the cartridge has RAM, its old value otherwise (R121). -/
def ramEnabledAfter (hasRam old : Bool) (v : Byte) : Bool := if hasRam then ramEnableCode v else old

/-- The numbers of R163, two bits wide on the `DIAG` port (R12). The numbering is the spec's own (D4). -/
def Diag.code : Diag → BitVec 2
  | .none => 0
  | .xramRdDisabled => 1
  | .xramWrDisabled => 2

end Sys2Proof.Machine
end

