-- ==== Sys2Proof/Machine/Operands.lean ====
section
/-! DEFINITION. Every operand form (spec/30_encoding.md R85, 20_memory.md R59, R60): addresses are 16-bit words, and a
number wider than an address is computed on naturals and narrowed once, at the end, to the width R60 gives it. For every
operand of its band a formula is exact: nothing wraps (R60; the lemmas of Laws/Operands.lean). -/

namespace Sys2Proof.Machine

/-- The ROM window's offset: `(a − 0x4000) + 0x4000 × currentRomBank` (R59, R101). -/
def romOffset (a : Addr) (bank : BitVec 7) : RomOffset :=
  BitVec.ofNat 21 ((a - 0x4000).toNat + 0x4000 * bank.toNat)

/-- The external-RAM window's index: `(a − 0xA000) + 0x2000 × currentRamBank` (R59, R103, R142). -/
def xramIndex (a : Addr) (bank : BitVec 2) : XramIndex :=
  BitVec.ofNat 15 ((a - 0xA000).toNat + 0x2000 * bank.toNat)

/-- The echo copy's address: `a + 0x2000` (R85, R143, R144). -/
def mirrorUp (a : Addr) : Addr := a + 0x2000

/-- The work-RAM copy's address: `a − 0x2000` (R85, R146, R147). -/
def mirrorDown (a : Addr) : Addr := a - 0x2000

/-- The open-bus row: `(a >> 4) − 0x0FEA`, 0 to 5 in the band (R105). -/
def openBusRow (a : Addr) : Nat := ((a >>> 4) - 0x0FEA).toNat

/-- The open-bus byte: `(((a + row) >> 2) & 1) != 0 ? 0x00 : 0xFF` (R105; the formula governs, 90 C3). -/
def openBusByte (a : Addr) : Byte :=
  if ((a.toNat + openBusRow a) >>> 2) &&& 1 != 0 then 0x00 else 0xFF

/-- The bank number a `WR.ROMB` selects: `max(1, v & 0x7F)` (R122). -/
def romBankOf (v : Byte) : BitVec 7 :=
  let b := v &&& 0x7F
  if b == 0 then 1 else b.setWidth 7

/-- The bank number a `WR.RAMB` selects: `v & 0x03` (R124). -/
def ramBankOf (v : Byte) : BitVec 2 := (v &&& 0x03).setWidth 2

/-- What a read of disabled external RAM returns (R103, R161, R187). -/
def disabledRamByte : Byte := 0x00

end Sys2Proof.Machine
end

