-- ==== Sys2Proof/Machine/Ops.lean ====
section
/-! DEFINITION. The named operations over memory, registers, collaborators and the step's record. The meanings of the
instructions are written over these alone. The block takes no exception (spec/60_exceptions.md R160, R167): what stands in
an exception's place is `State.raiseDiag`, which changes the record only. -/

namespace Sys2Proof.Machine

/-! ### The byte store -/

/-- How many bytes `ramBanks` has (10_state.md R21). -/
def Memory.size : Nat := 0x8000

/-- What an index that is not listed reads as: `Reset` zero-fills `ramBanks` (R37, R180). -/
def Memory.unlisted : Byte := 0x00

/-- The byte at an index. -/
def Memory.read : Memory → Nat → Byte
  | [], _ => Memory.unlisted
  | (k, b) :: m, i => if i = k then b else Memory.read m i

/-- Store a byte at an index, keeping the canonical form. -/
def Memory.write : Memory → Nat → Byte → Memory
  | [], i, v => if v = Memory.unlisted then [] else [(i, v)]
  | (k, b) :: m, i, v =>
      if i < k then (if v = Memory.unlisted then (k, b) :: m else (i, v) :: (k, b) :: m)
      else if i = k then (if v = Memory.unlisted then m else (k, v) :: m)
      else (k, b) :: Memory.write m i v

/-- Every listed index is at least `lo`, below the size and rising, and no listed byte is the unlisted one. -/
def Memory.wfFrom (lo : Nat) : Memory → Bool
  | [] => true
  | (k, b) :: m => decide (lo ≤ k) && decide (k < Memory.size) && (b != Memory.unlisted) && Memory.wfFrom (k + 1) m

/-- The canonical form: equal stores are equal lists (R26 item d: the indices are those of the 32768 bytes). -/
def Memory.wf (m : Memory) : Bool := Memory.wfFrom 0 m

/-! ### The block's registers (10_state.md R31) -/

/-- `currentRomBank <- n`. -/
def State.setRomBank (n : BitVec 7) (s : State) : State := { s with block := { s.block with currentRomBank := n } }

/-- `currentRamBank <- n`. -/
def State.setRamBank (n : BitVec 2) (s : State) : State := { s with block := { s.block with currentRamBank := n } }

/-- `ramEnabled <- b`. -/
def State.setRamEnabled (b : Bool) (s : State) : State := { s with block := { s.block with ramEnabled := b } }

/-- All five items at once, by `Reset` (R180); from then on transactions have a meaning (R38). -/
def State.setBlock (b : Block) (s : State) : State := { s with block := b, phase := .running }

/-! ### External RAM: `MemRead(XRAM:i, 1)` and `MemWrite(XRAM:i, 1, v)` -/

/-- `ramBanks[i]`. -/
def State.xramByte (s : State) (i : XramIndex) : Byte := Memory.read s.block.ramBanks i.toNat

/-- `ramBanks[i] <- v`. -/
def State.storeXram (i : XramIndex) (v : Byte) (s : State) : State :=
  { s with block := { s.block with ramBanks := Memory.write s.block.ramBanks i.toNat v } }

/-- The index of the external-RAM window at `a` under the current bank (R59). -/
def State.xramIndexOf (s : State) (a : Addr) : XramIndex := xramIndex a s.block.currentRamBank

/-- The ROM offset of the ROM window at `a` under the current bank (R59). -/
def State.romOffsetOf (s : State) (a : Addr) : RomOffset := romOffset a s.block.currentRomBank

/-! ### The step's record (00_scope.md R13) -/

/-- A step's record starts empty: nothing of the previous step's is kept (R163: a diagnostic "does not persist"). -/
def State.startRecord (s : State) : State := { s with out := StepRecord.empty }

/-- `return v`. -/
def State.returnByte (v : Byte) (s : State) : State := { s with out := { s.out with data := some v } }

/-- Append a call: every access to a space other than `XRAM` does (00_scope.md section 8). -/
def State.logCall (c : Call) (s : State) : State := { s with out := { s.out with calls := s.out.calls ++ [c] } }

/-- `diag <Code>`: "state and control flow are unaffected". -/
def State.raiseDiag (d : Diag) (s : State) : State := { s with out := { s.out with diag := d } }

/-! ### Collaborators (00_scope.md R7 to R9) -/

/-- The byte the environment answers next: the next one of `answers`, or a FREE VALUE when the run supplies none
(R7, D18; log entry 6). -/
def State.answer (s : State) : Byte :=
  match s.answers with
  | b :: _ => b
  | [] => Config.freeAnswer s.draws

/-- The environment's answer has been taken. -/
def State.takeAnswer (s : State) : State := { s with answers := s.answers.tail, draws := s.draws + 1 }

/-- A `MED.` read: the call is listed and the environment's answer returned, whatever it is (R7). -/
def State.readMediator (r : MediatorRead) (s : State) : State :=
  (((s.logCall (.medRead r)).returnByte s.answer)).takeAnswer

/-- A `MED.` write: the call is listed, and that is all (93 U3; log entry 16). -/
def State.writeMediator (w : MediatorWrite) (s : State) : State := s.logCall (.medWrite w)

/-- The byte the ROM store answers at an offset: its constant byte inside the ROM's size (R54), the environment's at or
beyond it (R59, D6; log entry 7). -/
def State.romData (s : State) (off : RomOffset) : Byte :=
  if off.toNat < s.session.romSize then Config.romByte off else s.answer

/-- `MemRead(ROM:off, 1)`: the call is listed and the store's byte returned; an offset at or beyond the ROM's size takes an
answer of the environment, a fresh one each time. -/
def State.readRom (off : RomOffset) (s : State) : State :=
  let t := (s.logCall (.romReadByte off)).returnByte (s.romData off)
  if off.toNat < s.session.romSize then t else t.takeAnswer

/-! ### Between operations -/

/-- A step in which the driver asserts no operation (R12: "at most one is asserted per step"): nothing happens. Log entry 2. -/
def State.idle (s : State) : State := s.startRecord

/-- Whether an operation has a meaning in the lifecycle: `Reset` always, a transaction only after the first `Reset`
(10_state.md R38, 70 R181). -/
def State.admits (s : State) : Operation → Bool
  | .reset _ => true
  | .read _ => decide (s.phase = .running)
  | .write _ _ => decide (s.phase = .running)

/-- The operation at the head of the driver's queue has been issued. -/
def State.afterFetch (rest : List Operation) (s : State) : State := { s with pending := rest }

/-- The operation that the bytes ask for at the head of the driver's queue, with the mode bit of the bytes' key, if they
hold a key: `CM` is "state, not an input of the transaction" (R80). A transaction needs the first `Reset` behind it (R38). -/
def State.withOperationBytes (s : State) (bs : List Byte) : State :=
  match Operation.ofBytes bs with
  | some op =>
      let cm := match bs with
        | [_, _, _, b3] => b3.getLsbD 1
        | _ => s.block.isColorMode
      { s with pending := op :: s.pending, phase := .running, block := { s.block with isColorMode := cm } }
  | none => s

end Sys2Proof.Machine
end

