-- ==== Sys2Proof/Machine/Read.lean ====
section
/-! DEFINITION. The meanings of the seven read bands (spec/40_read.md). Each writes no state of the block (R100). -/

namespace Sys2Proof.Machine

/-- `RD.ROMX` (R101). -/
def execRdRomx (a : Addr) (s : State) : Host.Outcome State Fault Refusal :=
  .next (s.startRecord.readRom (s.romOffsetOf a))

/-- `RD.CVRAM` (R102): the "active" bank, `forceBank0 = false`. -/
def execRdCvram (a : Addr) (s : State) : Host.Outcome State Fault Refusal :=
  .next (s.startRecord.readMediator (.colorVideoRAM a false))

/-- `RD.XRAM` (R103): the byte of the selected bank, or the sentinel and a diagnostic. -/
def execRdXram (a : Addr) (s : State) : Host.Outcome State Fault Refusal :=
  if s.block.ramEnabled then .next (s.startRecord.returnByte (s.xramByte (s.xramIndexOf a)))
  else .next ((s.startRecord.raiseDiag .xramRdDisabled).returnByte disabledRamByte)

/-- `RD.CWRAM` (R104). -/
def execRdCwram (a : Addr) (s : State) : Host.Outcome State Fault Refusal :=
  .next (s.startRecord.readMediator (.colorWorkRAM a))

/-- `RD.OPENBUS` (R105): computed from the address alone; no collaborator is called. -/
def execRdOpenbus (a : Addr) (s : State) : Host.Outcome State Fault Refusal :=
  .next (s.startRecord.returnByte (openBusByte a))

/-- `RD.UNUSED_FWD` (R106). -/
def execRdUnusedFwd (a : Addr) (s : State) : Host.Outcome State Fault Refusal :=
  .next (s.startRecord.readMediator (.generic a))

/-- `RD.GEN` (R107). -/
def execRdGen (a : Addr) (s : State) : Host.Outcome State Fault Refusal :=
  .next (s.startRecord.readMediator (.generic a))

end Sys2Proof.Machine
end

