-- ==== Sys2Proof/Machine/Reset.lean ====
section
/-! DEFINITION. The meaning of `RESET` (spec/70_reset_and_hazards.md R180): all five items of the block, and no
collaborator call. -/

namespace Sys2Proof.Machine

/-- The block that `Reset(c)` leaves when `ROMB_RESET` is `n` (10_state.md R37). -/
def resetBlock (n : Fin 2) (c : Bool) : Block :=
  { ramBanks := [], currentRomBank := BitVec.ofNat 7 n.val, currentRamBank := 0, ramEnabled := false, isColorMode := c }

/-- `RESET` (R180). -/
def execReset (c : Bool) (s : State) : Host.Outcome State Fault Refusal :=
  .next (s.startRecord.setBlock (resetBlock s.session.rombReset c))

end Sys2Proof.Machine
end

