-- ==== Sys2Proof/Machine/WriteControl.lean ====
section
/-! DEFINITION. The meanings of the five control-write bands (spec/41_write_control.md). The address only selects the port
(R85: `A[12:0]` ignored), so the meanings do not use it. -/

namespace Sys2Proof.Machine

/-- `WR.RAMG` (R121). -/
def execWrRamg (_a : Addr) (v : Byte) (s : State) : Host.Outcome State Fault Refusal :=
  .next (s.startRecord.setRamEnabled (ramEnabledAfter s.session.hasRam s.block.ramEnabled v))

/-- `WR.ROMB` (R122). -/
def execWrRomb (_a : Addr) (v : Byte) (s : State) : Host.Outcome State Fault Refusal :=
  .next (s.startRecord.setRomBank (romBankOf v))

/-- `WR.RTCSEL` (R123): inert. -/
def execWrRtcsel (_a : Addr) (_v : Byte) (s : State) : Host.Outcome State Fault Refusal :=
  .next s.startRecord

/-- `WR.RAMB` (R124). -/
def execWrRamb (_a : Addr) (v : Byte) (s : State) : Host.Outcome State Fault Refusal :=
  .next (s.startRecord.setRamBank (ramBankOf v))

/-- `WR.LATCH` (R125): inert. -/
def execWrLatch (_a : Addr) (_v : Byte) (s : State) : Host.Outcome State Fault Refusal :=
  .next s.startRecord

end Sys2Proof.Machine
end

