-- ==== Sys2Proof/Machine/WriteData.lean ====
section
/-! DEFINITION. The meanings of the nine data-write bands (spec/42_write_data.md). The two calls of a mirrored store stand in
the order of the rule's pseudocode (the spec's decision D9; log entry 10). -/

namespace Sys2Proof.Machine

/-- `WR.CVRAM` (R141). -/
def execWrCvram (a : Addr) (v : Byte) (s : State) : Host.Outcome State Fault Refusal :=
  .next (s.startRecord.writeMediator (.colorVideoRAM a v))

/-- `WR.XRAM` (R142): stored in the selected bank, or dropped with a diagnostic. -/
def execWrXram (a : Addr) (v : Byte) (s : State) : Host.Outcome State Fault Refusal :=
  if s.block.ramEnabled then .next (s.startRecord.storeXram (s.xramIndexOf a) v)
  else .next (s.startRecord.raiseDiag .xramWrDisabled)

/-- `WR.WRAM_ECHO_UP` (R143). -/
def execWrWramEchoUp (a : Addr) (v : Byte) (s : State) : Host.Outcome State Fault Refusal :=
  .next ((s.startRecord.writeMediator (.generic (mirrorUp a) v)).writeMediator (.generic a v))

/-- `WR.CWRAM_ECHO_UP` (R144). -/
def execWrCwramEchoUp (a : Addr) (v : Byte) (s : State) : Host.Outcome State Fault Refusal :=
  .next ((s.startRecord.writeMediator (.colorWorkRAM a v)).writeMediator (.generic (mirrorUp a) v))

/-- `WR.CWRAM_TOP` (R145): no mirror. -/
def execWrCwramTop (a : Addr) (v : Byte) (s : State) : Host.Outcome State Fault Refusal :=
  .next (s.startRecord.writeMediator (.colorWorkRAM a v))

/-- `WR.ECHO_DOWN` (R146). -/
def execWrEchoDown (a : Addr) (v : Byte) (s : State) : Host.Outcome State Fault Refusal :=
  .next ((s.startRecord.writeMediator (.generic (mirrorDown a) v)).writeMediator (.generic a v))

/-- `WR.ECHO_CWRAM_DOWN` (R147). -/
def execWrEchoCwramDown (a : Addr) (v : Byte) (s : State) : Host.Outcome State Fault Refusal :=
  .next ((s.startRecord.writeMediator (.colorWorkRAM (mirrorDown a) v)).writeMediator (.generic a v))

/-- `WR.UNUSED` (R148). -/
def execWrUnused (a : Addr) (v : Byte) (s : State) : Host.Outcome State Fault Refusal :=
  .next (s.startRecord.writeMediator (.generic a v))

/-- `WR.GEN` (R149). -/
def execWrGen (a : Addr) (v : Byte) (s : State) : Host.Outcome State Fault Refusal :=
  .next (s.startRecord.writeMediator (.generic a v))

end Sys2Proof.Machine
end

