-- ==== Sys2Proof/Machine/Dispatch.lean ====
section
/-! DEFINITION. Every band to its meaning, one arm each (spec/30_encoding.md R82, R83). -/

namespace Sys2Proof.Machine

def exec (i : Instr) (s : State) : Host.Outcome State Fault Refusal :=
  match i with
  | .rdRomx a => Sys2Proof.Machine.execRdRomx a s
  | .rdCvram a => Sys2Proof.Machine.execRdCvram a s
  | .rdXram a => Sys2Proof.Machine.execRdXram a s
  | .rdCwram a => Sys2Proof.Machine.execRdCwram a s
  | .rdOpenbus a => Sys2Proof.Machine.execRdOpenbus a s
  | .rdUnusedFwd a => Sys2Proof.Machine.execRdUnusedFwd a s
  | .rdGen a => Sys2Proof.Machine.execRdGen a s
  | .wrRamg a v => Sys2Proof.Machine.execWrRamg a v s
  | .wrRomb a v => Sys2Proof.Machine.execWrRomb a v s
  | .wrRtcsel a v => Sys2Proof.Machine.execWrRtcsel a v s
  | .wrRamb a v => Sys2Proof.Machine.execWrRamb a v s
  | .wrLatch a v => Sys2Proof.Machine.execWrLatch a v s
  | .wrCvram a v => Sys2Proof.Machine.execWrCvram a v s
  | .wrXram a v => Sys2Proof.Machine.execWrXram a v s
  | .wrWramEchoUp a v => Sys2Proof.Machine.execWrWramEchoUp a v s
  | .wrCwramEchoUp a v => Sys2Proof.Machine.execWrCwramEchoUp a v s
  | .wrCwramTop a v => Sys2Proof.Machine.execWrCwramTop a v s
  | .wrEchoDown a v => Sys2Proof.Machine.execWrEchoDown a v s
  | .wrEchoCwramDown a v => Sys2Proof.Machine.execWrEchoCwramDown a v s
  | .wrUnused a v => Sys2Proof.Machine.execWrUnused a v s
  | .wrGen a v => Sys2Proof.Machine.execWrGen a v s
  | .reset c => Sys2Proof.Machine.execReset c s

end Sys2Proof.Machine
end

