-- ==== Sys2Proof/Machine/Step.lean ====
section
/-! DEFINITION. One step: the driver's next operation is taken from the queue, decoded under the current mode bit and
performed, whole (spec/00_scope.md R5, 20_memory.md R53, R61). -/

namespace Sys2Proof.Machine

/-- The three outcomes: next, fault (there is none), refusal. -/
def step (s : State) : Host.Outcome State Fault Refusal :=
  match s.pending with
  | [] => .next s.idle
  | op :: rest =>
      if s.admits op then exec (decodeOperation s.block.isColorMode op) (s.afterFetch rest)
      else .refused .beforeFirstReset

/-- `s` with a table word where `step` takes its next operation: at the head of the driver's queue. The word's `CM` bit
is not the driver's but the block's (R80), so it is put there. Bytes that hold no operation change nothing. Log entry 14. -/
def State.withFetchWord (s : State) (nbits w : Nat) : State := s.withOperationBytes (tableBytes nbits w)

end Sys2Proof.Machine
end

