-- ==== Sys2Proof/Machine/Ports.lean ====
section
/-! DEFINITION. The signal-level rendering of spec/00_scope.md R12, the spec's own choice (D2), port by port: what the input
ports carry in a step, which operation they ask for, and what the output ports show of the step's record. No rule depends
on it and it carries no timing. Log entry 19. -/

namespace Sys2Proof.Machine

/-- The input ports of R12, every one. -/
structure InPorts where
  /-- CPU address. -/
  A       : Addr
  /-- Write data. -/
  DI      : Byte
  /-- Operation select: `Read`. -/
  RD      : Bool
  /-- Operation select: `Write`. -/
  WR      : Bool
  /-- Performs `Reset`; samples `CGB`. -/
  RST     : Bool
  /-- The `colorMode` argument of `Reset`. -/
  CGB     : Bool
  /-- `GetRAMSizeBytes() ≠ 0`. -/
  HAS_RAM : Bool
  /-- The byte the ROM store returns. -/
  ROM_D   : Byte
  /-- The byte the mediator returns. -/
  M_RD    : Byte
  deriving DecidableEq, Repr

/-- A mediator target. -/
inductive MediatorSelect where
  | gen | cvram | cwram
  deriving DecidableEq, Repr

/-- The two bits of `M_SEL`. R12 gives the width and lists the targets; the numbers, in the listed order, are the model's
(DESIGN CHOICE, log entry 19). -/
def MediatorSelect.code : MediatorSelect → BitVec 2
  | .gen => 0
  | .cvram => 1
  | .cwram => 2

/-- One strobe on the mediator's ports: `M_SEL`, `M_A`, and `M_WD` with `M_WE`, or `M_RE`. -/
structure MediatorStrobe where
  M_SEL : BitVec 2
  M_A   : Addr
  M_WD  : Option Byte
  M_RE  : Bool
  M_WE  : Bool
  deriving DecidableEq, Repr

/-- The output ports of one step; `none` on a port that the step does not drive. -/
structure OutPorts where
  DO    : Option Byte
  ROM_A : Option RomOffset
  /-- The strobes, in the order the rule gives. -/
  M     : List MediatorStrobe
  DIAG  : BitVec 2
  deriving DecidableEq, Repr

/-! ### Input -/

/-- The operation selected; none when no select is asserted, or more than one (log entry 19). -/
def InPorts.operation? (p : InPorts) : Option Operation :=
  match p.RST, p.RD, p.WR with
  | true, false, false => some (.reset p.CGB)
  | false, true, false => some (.read p.A)
  | false, false, true => some (.write p.A p.DI)
  | _, _, _ => none

/-- What the ports carry when no operation is selected, for the surroundings' three ports as `State.inPorts` sets them. -/
def InPorts.unselected (hasRam : Bool) (romD mRd : Byte) : InPorts :=
  { A := 0, DI := 0, RD := false, WR := false, RST := false, CGB := false, HAS_RAM := hasRam, ROM_D := romD, M_RD := mRd }

/-- The ports as a driver sets them for an operation, over what the surroundings carry; a port that the operation does not
use is left as it is. -/
def InPorts.select (p : InPorts) : Operation → InPorts
  | .read a => { p with A := a, RD := true }
  | .write a v => { p with A := a, DI := v, WR := true }
  | .reset c => { p with RST := true, CGB := c }

/-- What `A` carries in the step that `s` takes. -/
def State.portA (s : State) : Addr :=
  match s.pending with
  | .read a :: _ => a
  | .write a _ :: _ => a
  | .reset _ :: _ => 0
  | [] => 0

/-- The input ports in the step that `s` takes: the selects for the operation at the head of the queue; `HAS_RAM` from the
session; on `ROM_D` the store's byte at the offset the ROM window has for `A`; on `M_RD` the environment's answer. `ROM_D`
and `M_RD` matter only in a step that drives `ROM_A` or `M_RE`. -/
def State.inPorts (s : State) : InPorts :=
  let p := InPorts.unselected s.session.hasRam (s.romData (s.romOffsetOf s.portA)) s.answer
  match s.pending with
  | op :: _ => p.select op
  | [] => p

/-! ### Output -/

/-- What a call shows on `ROM_A`. -/
def Call.romA? : Call → Option RomOffset
  | .romReadByte off => some off
  | .medRead _ => none
  | .medWrite _ => none

/-- A read strobe. -/
def MediatorStrobe.ofRead (m : MediatorSelect) (a : Addr) : MediatorStrobe :=
  { M_SEL := m.code, M_A := a, M_WD := none, M_RE := true, M_WE := false }

/-- A write strobe. -/
def MediatorStrobe.ofWrite (m : MediatorSelect) (a : Addr) (v : Byte) : MediatorStrobe :=
  { M_SEL := m.code, M_A := a, M_WD := some v, M_RE := false, M_WE := true }

/-- What a call shows on the mediator's ports. `forceBank0` has no port: it is "tied to 0" (D2). -/
def Call.strobe? : Call → Option MediatorStrobe
  | .romReadByte _ => none
  | .medRead (.generic a) => some (.ofRead .gen a)
  | .medRead (.colorVideoRAM a _) => some (.ofRead .cvram a)
  | .medRead (.colorWorkRAM a) => some (.ofRead .cwram a)
  | .medWrite (.generic a v) => some (.ofWrite .gen a v)
  | .medWrite (.colorVideoRAM a v) => some (.ofWrite .cvram a v)
  | .medWrite (.colorWorkRAM a v) => some (.ofWrite .cwram a v)

/-- The output ports of a step, from its record. -/
def StepRecord.outPorts (r : StepRecord) : OutPorts :=
  { DO := r.data, ROM_A := (r.calls.filterMap Call.romA?).head?, M := r.calls.filterMap Call.strobe?, DIAG := r.diag.code }

end Sys2Proof.Machine
end

