-- ==== Sys2Proof/Safety.lean ====
section
/-! DEFINITION. What counts as a safe run, in the terms the claims use: the invariants of spec/10_state.md R26, frames,
histories of operations, the two address maps of 20_memory.md as data, and a generic store for the echo property. -/

namespace Sys2Proof.Machine

/-! ### Invariants -/

/-- R26 items d and e: the byte store has its canonical form over its 32768 indices, and without RAM in the cartridge the
latch is off and every byte is 0. -/
def State.Inv (s : State) : Prop :=
  Memory.wf s.block.ramBanks = true ∧
  (s.session.hasRam = false → s.block.ramEnabled = false ∧ ∀ i : XramIndex, s.xramByte i = 0)

/-! ### Frames -/

/-- Nothing outside the block and the step's record differs. -/
def State.SameSurroundings (s t : State) : Prop :=
  t.session = s.session ∧ t.phase = s.phase ∧ t.pending = s.pending ∧ t.answers = s.answers ∧ t.draws = s.draws

/-- As `SameSurroundings`, but that one answer of the environment has been taken. -/
def State.TookOneAnswer (s t : State) : Prop :=
  t.session = s.session ∧ t.phase = s.phase ∧ t.pending = s.pending ∧ t.answers = s.answers.tail ∧ t.draws = s.draws + 1

/-- The four registers are unchanged. -/
def Block.SameRegisters (b c : Block) : Prop :=
  c.currentRomBank = b.currentRomBank ∧ c.currentRamBank = b.currentRamBank ∧ c.ramEnabled = b.ramEnabled ∧
  c.isColorMode = b.isColorMode

/-- Every byte of `ramBanks` reads as before. -/
def Block.SameBytes (b c : Block) : Prop :=
  ∀ i : XramIndex, Memory.read c.ramBanks i.toNat = Memory.read b.ramBanks i.toNat

/-! ### Runs and histories -/

/-- `k` steps of the machine. -/
def runSteps (k : Nat) (s : State) : Host.Outcome State Fault Refusal := Host.Core.run Sys2Proof.core k s

/-- One step for each operation, issued in order from `s`. -/
def runOps (s : State) (ops : List Operation) : Host.Outcome State Fault Refusal :=
  runSteps ops.length { s with pending := ops }

/-- The `colorMode` argument of the last `Reset` of a history, or what it was before. -/
def lastColorMode : Bool → List Operation → Bool
  | c, [] => c
  | _, .reset c :: ops => lastColorMode c ops
  | c, .read _ :: ops => lastColorMode c ops
  | c, .write _ _ :: ops => lastColorMode c ops

end Sys2Proof.Machine

namespace Sys2Proof

/-- The operation is a `Reset`. -/
def Operation.isReset : Operation → Bool
  | .reset _ => true
  | .read _ => false
  | .write _ _ => false

/-- The operation is a write to `[0x2000, 0x4000)`. -/
def Operation.selectsRomBank : Operation → Bool
  | .write a _ => decide (0x2000 ≤ a.toNat ∧ a.toNat < 0x4000)
  | .read _ => false
  | .reset _ => false

/-- The operation addresses the external-RAM window `[0xA000, 0xC000)`. -/
def Operation.inXramWindow : Operation → Bool
  | .read a => decide (0xA000 ≤ a.toNat ∧ a.toNat < 0xC000)
  | .write a _ => decide (0xA000 ≤ a.toNat ∧ a.toNat < 0xC000)
  | .reset _ => false

end Sys2Proof

namespace Sys2Proof.Machine

/-- The next step of `s` writes the byte `i` of `ramBanks`: a `Reset`, or an enabled write of the window at `i`. -/
def State.WritesByte (s : State) (i : XramIndex) : Prop :=
  match s.pending with
  | .reset _ :: _ => True
  | .write a _ :: _ => 0xA000 ≤ a.toNat ∧ a.toNat < 0xC000 ∧ s.block.ramEnabled = true ∧ s.xramIndexOf a = i
  | _ => False

/-- The RAM-enable latch as a write of `v` to `[0x0000, 0x2000)` leaves it (R121). -/
def State.latchAfter (s : State) (v : Byte) : Bool :=
  if s.session.hasRam then decide (v.toNat % 16 = 10) else s.block.ramEnabled

/-! ### The read map (20_memory.md R56) -/

/-- A target column of the read map. -/
inductive ReadTarget where
  | gen | rom | cvram | xram | openBus | cwram
  deriving DecidableEq, Repr

/-- A row: `[lo, hi)` with its targets and bands for CM = 0 and CM = 1. -/
structure ReadMapRow where
  lo : Nat
  hi : Nat
  plain : ReadTarget
  color : ReadTarget
  plainBand : Band
  colorBand : Band
  deriving DecidableEq, Repr

/-- The address lies in the row's range. -/
def ReadMapRow.has (r : ReadMapRow) (a : Addr) : Bool := decide (r.lo ≤ a.toNat ∧ a.toNat < r.hi)

/-- The table of R56, row by row. -/
def readMap : List ReadMapRow :=
  [ ⟨0x0000, 0x4000, .gen, .gen, .rdGen, .rdGen⟩,
    ⟨0x4000, 0x8000, .rom, .rom, .rdRomx, .rdRomx⟩,
    ⟨0x8000, 0xA000, .gen, .cvram, .rdGen, .rdCvram⟩,
    ⟨0xA000, 0xC000, .xram, .xram, .rdXram, .rdXram⟩,
    ⟨0xC000, 0xD000, .gen, .gen, .rdGen, .rdGen⟩,
    ⟨0xD000, 0xE000, .gen, .cwram, .rdGen, .rdCwram⟩,
    ⟨0xE000, 0xFEA0, .gen, .gen, .rdGen, .rdGen⟩,
    ⟨0xFEA0, 0xFF00, .openBus, .gen, .rdOpenbus, .rdUnusedFwd⟩,
    ⟨0xFF00, 0x10000, .gen, .gen, .rdGen, .rdGen⟩ ]

/-- The calls a read of a target makes. -/
def ReadTarget.calls (b : Block) (a : Addr) : ReadTarget → List Call
  | .gen => [.medRead (.generic a)]
  | .rom => [.romReadByte (BitVec.ofNat 21 ((a.toNat - 0x4000) + 0x4000 * b.currentRomBank.toNat))]
  | .cvram => [.medRead (.colorVideoRAM a false)]
  | .cwram => [.medRead (.colorWorkRAM a)]
  | .xram => []
  | .openBus => []

/-- The byte a read of a target returns: the block's own for `xram` and `openBus`; the ROM store's constant byte inside its
size; the environment's answer, a free value, for the rest. -/
def ReadTarget.byte (s : State) (a : Addr) : ReadTarget → Byte
  | .gen => s.answer
  | .rom =>
      let off : RomOffset := BitVec.ofNat 21 ((a.toNat - 0x4000) + 0x4000 * s.block.currentRomBank.toNat)
      if off.toNat < s.session.romSize then Config.romByte off else s.answer
  | .cvram => s.answer
  | .xram =>
      if s.block.ramEnabled then
        Memory.read s.block.ramBanks ((a.toNat - 0xA000) + 0x2000 * s.block.currentRamBank.toNat)
      else 0x00
  | .openBus => if (a.toNat % 16 + (a.toNat / 16 - 0xFEA)) / 4 % 2 = 1 then 0x00 else 0xFF
  | .cwram => s.answer

/-! ### The write map (20_memory.md R57) -/

/-- What a write of a target does. -/
inductive WriteTarget where
  | ramEnable | romBank | dualPurpose | nothing | xram
  | gen | cvram | cwram
  | genUpGen | cwramGenUp | genDownGen | cwramDownGen
  deriving DecidableEq, Repr

/-- A row: `[lo, hi)` with its targets for CM = 0 and CM = 1. -/
structure WriteMapRow where
  lo : Nat
  hi : Nat
  plain : WriteTarget
  color : WriteTarget
  deriving DecidableEq, Repr

/-- The address lies in the row's range. -/
def WriteMapRow.has (r : WriteMapRow) (a : Addr) : Bool := decide (r.lo ≤ a.toNat ∧ a.toNat < r.hi)

/-- The table of R57, row by row. -/
def writeMap : List WriteMapRow :=
  [ ⟨0x0000, 0x2000, .ramEnable, .ramEnable⟩,
    ⟨0x2000, 0x4000, .romBank, .romBank⟩,
    ⟨0x4000, 0x6000, .dualPurpose, .dualPurpose⟩,
    ⟨0x6000, 0x8000, .nothing, .nothing⟩,
    ⟨0x8000, 0xA000, .gen, .cvram⟩,
    ⟨0xA000, 0xC000, .xram, .xram⟩,
    ⟨0xC000, 0xD000, .genUpGen, .genUpGen⟩,
    ⟨0xD000, 0xDE00, .genUpGen, .cwramGenUp⟩,
    ⟨0xDE00, 0xE000, .gen, .cwram⟩,
    ⟨0xE000, 0xF000, .genDownGen, .genDownGen⟩,
    ⟨0xF000, 0xFE00, .genDownGen, .cwramDownGen⟩ ] ++
  [ ⟨0xFE00, 0xFEA0, .gen, .gen⟩,
    ⟨0xFEA0, 0xFF00, .gen, .gen⟩,
    ⟨0xFF00, 0x10000, .gen, .gen⟩ ]

/-- The calls a write to a target makes, left one first. -/
def WriteTarget.calls (a : Addr) (v : Byte) : WriteTarget → List Call
  | .ramEnable => []
  | .romBank => []
  | .dualPurpose => []
  | .nothing => []
  | .xram => []
  | .gen => [.medWrite (.generic a v)]
  | .cvram => [.medWrite (.colorVideoRAM a v)]
  | .cwram => [.medWrite (.colorWorkRAM a v)]
  | .genUpGen => [.medWrite (.generic (a + 0x2000) v), .medWrite (.generic a v)]
  | .cwramGenUp => [.medWrite (.colorWorkRAM a v), .medWrite (.generic (a + 0x2000) v)]
  | .genDownGen => [.medWrite (.generic (a - 0x2000) v), .medWrite (.generic a v)]
  | .cwramDownGen => [.medWrite (.colorWorkRAM (a - 0x2000) v), .medWrite (.generic a v)]

/-- The block after a write to a target. -/
def WriteTarget.block (hasRam : Bool) (b : Block) (a : Addr) (v : Byte) : WriteTarget → Block
  | .ramEnable => { b with ramEnabled := if hasRam then decide (v.toNat % 16 = 10) else b.ramEnabled }
  | .romBank => { b with currentRomBank := BitVec.ofNat 7 (max 1 (v.toNat % 128)) }
  | .dualPurpose =>
      { b with currentRamBank :=
          if 0x08 ≤ v.toNat ∧ v.toNat ≤ 0x0C then b.currentRamBank else BitVec.ofNat 2 (v.toNat % 4) }
  | .xram =>
      { b with ramBanks :=
          if b.ramEnabled then Memory.write b.ramBanks ((a.toNat - 0xA000) + 0x2000 * b.currentRamBank.toNat) v
          else b.ramBanks }
  | .nothing => b
  | .gen => b
  | .cvram => b
  | .cwram => b
  | .genUpGen => b
  | .cwramGenUp => b
  | .genDownGen => b
  | .cwramDownGen => b

/-! ### A generic store for the echo property (20_memory.md R67)

Not part of the block and not a claim about the mediator (R7): the premise of R67, "Provided the mediator's generic store
returns at an address the byte last written there", made a function. -/

/-- The generic store after the writes among some calls. -/
def genericAfter (g : Addr → Byte) : List Call → Addr → Byte
  | [] => g
  | .medWrite (.generic a v) :: cs => genericAfter (fun x => if x = a then v else g x) cs
  | .medWrite (.colorVideoRAM _ _) :: cs => genericAfter g cs
  | .medWrite (.colorWorkRAM _ _) :: cs => genericAfter g cs
  | .medRead _ :: cs => genericAfter g cs
  | .romReadByte _ :: cs => genericAfter g cs

end Sys2Proof.Machine
end

