-- ==== Sys2Proof/Certificates/Slice0/Obligations.lean ====
section
/-! DEFINITION. The statements for the provers. Every statement about a free value holds for every value of it: the byte the
environment answers is `State.answer`, the head of the run's own `answers` or a constant without a body. -/

open Sys2Proof Sys2Proof.Machine

/-! ### Encoding -/

/-- Words written out bit by bit from spec/30_encoding.md R80 (and R88's examples), laid out as log entry 13 says, decode
to the bands R82 and R83 name for them. -/
def Obligations.WrittenOutWordsDecode : Prop :=
  decode [0x05, 0x00, 0x20, 0x01] = .ok (.wrRomb 0x2000 0x05) ∧
  decode [0x00, 0x00, 0x40, 0x00] = .ok (.rdRomx 0x4000) ∧
  decode [0x0C, 0x00, 0x40, 0x01] = .ok (.wrRtcsel 0x4000 0x0C) ∧
  decode [0x00, 0xA0, 0xFE, 0x00] = .ok (.rdOpenbus 0xFEA0) ∧
  decode [0x00, 0xA0, 0xFE, 0x02] = .ok (.rdUnusedFwd 0xFEA0) ∧
  decode [0x66, 0x00, 0xDE, 0x03] = .ok (.wrCwramTop 0xDE00 0x66) ∧
  decode [0x66, 0x00, 0xDE, 0x01] = .ok (.wrGen 0xDE00 0x66) ∧
  decode [0x01] = .ok (.reset true)

/-- Decode inverts encode, for every instruction that is well formed under the mode bit, at every operand. -/
def Obligations.DecodeInvertsEncode : Prop :=
  ∀ (cm : Bool) (i : Instr), i.wellFormed cm = true → decode (encode cm i) = .ok i

/-- A transaction belongs to exactly the bands-with-operands that the tables of disjoint ranges admit (R82, R83): the
first-match decoder and the tables agree, so each transaction has one band and each table entry is reached. -/
def Obligations.BandIsTheOneTheTablesAdmit : Prop :=
  ∀ (cm : Bool) (i : Instr), decodeOperation cm i.operation = i ↔ i.wellFormed cm = true

/-- Every key decodes, to an instruction whose encoding is that key again but for the data byte of a read, which no key of
a read has (R80, R86). -/
def Obligations.EveryKeyEncodesBack : Prop :=
  ∀ k : Key, (decodeKey k).wellFormed k.cm = true ∧
    ofLeBytes (encode k.cm (decodeKey k)) = if k.wr then k.toNat else k.toNat - k.data.toNat

/-- Every one of the 2^26 keys matches exactly one of the 55 rows of spec/opcode_table.json, and that row's band is the
decoder's (R84). -/
def Obligations.OpcodeTableIsExact : Prop :=
  opcodeTable.length = 55 ∧
  ∀ k : Key, (opcodeTable.filter fun r => r.holds k).map TableRow.band = [(decodeKey k).band]

/-- The mode bit changes the band in the ranges R87 lists and nowhere else. -/
def Obligations.ModeBitMattersOnlyInSixRanges : Prop :=
  ∀ (a : Addr) (v : Byte),
    (decodeOperation true (.read a) ≠ decodeOperation false (.read a) ↔
      (0x8000 ≤ a.toNat ∧ a.toNat < 0xA000) ∨ (0xD000 ≤ a.toNat ∧ a.toNat < 0xE000) ∨
      (0xFEA0 ≤ a.toNat ∧ a.toNat < 0xFF00)) ∧
    (decodeOperation true (.write a v) ≠ decodeOperation false (.write a v) ↔
      (0x8000 ≤ a.toNat ∧ a.toNat < 0xA000) ∨ (0xD000 ≤ a.toNat ∧ a.toNat < 0xE000) ∨
      (0xF000 ≤ a.toNat ∧ a.toNat < 0xFE00))

/-- The bit-field forms of the address formulas, and that each is exact: nothing wraps (R60, R85). -/
def Obligations.AddressFormulasAreBitFields : Prop :=
  (∀ (a : Addr) (n : BitVec 7), 0x4000 ≤ a.toNat → a.toNat < 0x8000 → romOffset a n = n ++ a.extractLsb' 0 14) ∧
  (∀ (a : Addr) (n : BitVec 2), 0xA000 ≤ a.toNat → a.toNat < 0xC000 → xramIndex a n = n ++ a.extractLsb' 0 13) ∧
  (∀ a : Addr, 0xC000 ≤ a.toNat → a.toNat < 0xDE00 →
    mirrorUp a = a ^^^ 0x2000 ∧ 0xE000 ≤ (mirrorUp a).toNat ∧ (mirrorUp a).toNat ≤ 0xFDFF) ∧
  (∀ a : Addr, 0xE000 ≤ a.toNat → a.toNat < 0xFE00 →
    mirrorDown a = a ^^^ 0x2000 ∧ 0xC000 ≤ (mirrorDown a).toNat ∧ (mirrorDown a).toNat ≤ 0xDDFF)

/-- Each pseudo-operation is a write to the lowest address of its port and decodes, in either mode, to the band it is named
for (R89, the spec's decision D11); `ROMB n` and `RAMB n` carry their number as the whole data byte. -/
def Obligations.PseudoOperationsExpandToOneWrite : Prop :=
  ∀ cm : Bool,
    decodeOperation cm Pseudo.ramen.expand = .wrRamg 0x0000 0x0A ∧
    decodeOperation cm Pseudo.ramdis.expand = .wrRamg 0x0000 0x00 ∧
    (∀ n : BitVec 7, ∃ v : Byte, v.toNat = n.toNat ∧ decodeOperation cm (Pseudo.romb n).expand = .wrRomb 0x2000 v) ∧
    (∀ n : BitVec 2, ∃ v : Byte, v.toNat = n.toNat ∧ decodeOperation cm (Pseudo.ramb n).expand = .wrRamb 0x4000 v) ∧
    (∀ r : Byte, 0x08 ≤ r.toNat → r.toNat ≤ 0x0C → decodeOperation cm (Pseudo.rtcsel r).expand = .wrRtcsel 0x4000 r) ∧
    (∀ v : Byte, decodeOperation cm (Pseudo.latch v).expand = .wrLatch 0x6000 v)

/-- The signal-level rendering of R12 (the spec's decision D2) selects the operation it was set for, whatever the
surroundings carry on `HAS_RAM`, `ROM_D` and `M_RD`, and changes none of those three. It asks for none unless exactly one of
`RD`, `WR`, `RST` is asserted: that clause is the MODEL'S CHOICE (log entry 19); R12 says only that at most one of `RD` and
`WR` is asserted. The two bits of `M_SEL` tell the three targets apart. -/
def Obligations.PortsSelectTheOperation : Prop :=
  (∀ (op : Operation) (h : Bool) (r m : Byte),
    ((InPorts.unselected h r m).select op).operation? = some op ∧
    ((InPorts.unselected h r m).select op).HAS_RAM = h ∧ ((InPorts.unselected h r m).select op).ROM_D = r ∧
    ((InPorts.unselected h r m).select op).M_RD = m) ∧
  (∀ p : InPorts, p.operation?.isSome = true ↔ p.RST.toNat + p.RD.toNat + p.WR.toNat = 1) ∧
  (∀ m n : MediatorSelect, m.code = n.code → m = n) ∧
  ∀ s : State, s.inPorts.operation? = s.pending.head? ∧ s.inPorts.HAS_RAM = s.session.hasRam

/-! ### The step -/

/-- A step runs the decoded operation: when the bytes of the operation at the head of the driver's queue, under the block's
own mode bit, decode to `i`, the step is `exec i` at that state with the operation taken from the queue, provided the
operation has a meaning in the lifecycle (a `Reset`, or the first `Reset` is past). -/
def Obligations.StepRunsTheDecodedOperation : Prop :=
  ∀ (s : State) (op : Operation) (rest : List Operation) (i : Instr),
    s.pending = op :: rest → s.phase = .running ∨ op.isReset = true →
    decode (op.bytes s.block.isColorMode) = .ok i →
    step s = exec i { s with pending := rest }

/-- A step in which the driver issues no operation changes nothing but the record, which is then empty: the model's choice
(log entry 2); R12 has "at most one" operation a step. -/
def Obligations.StepWithoutOperationIdles : Prop :=
  ∀ s : State, s.pending = [] →
    step s = .next { s with out := { data := none, calls := [], diag := .none } }

/-- Before the first `Reset` a transaction is refused by name, and a `Reset` runs and leaves what R37 says whatever the
construction values were: the spec's decision D8 (R38, R181). -/
def Obligations.BeforeTheFirstResetOnlyResetRuns : Prop :=
  ∀ (b : Block) (ses : Session) (op : Operation) (rest : List Operation) (ans : List Byte) (n : Nat),
    (op.isReset = false → step (State.constructed b ses (op :: rest) ans n) = .refused .beforeFirstReset) ∧
    ∀ c : Bool, op = .reset c → ∃ t, step (State.constructed b ses (op :: rest) ans n) = .next t ∧
      t.phase = .running ∧ t.block.isColorMode = c ∧ t.block.currentRomBank.toNat = ses.rombReset.val ∧
      t.block.currentRamBank = 0 ∧ t.block.ramEnabled = false ∧ ∀ i : XramIndex, t.xramByte i = 0

/-- Totality: every instruction, with any operands, in any state, has a next state; so has every step after the first
`Reset`, and every step that issues a `Reset` (R6, R160; before the first `Reset` the spec's decision D8 applies). -/
def Obligations.EveryOperationHasANextState : Prop :=
  (∀ (i : Instr) (s : State), ∃ t, exec i s = .next t) ∧
  (∀ s : State, s.phase = .running → ∃ t, step s = .next t ∧ t.phase = .running) ∧
  (∀ (s : State) (c : Bool) (rest : List Operation), s.pending = .reset c :: rest →
    ∃ t, step s = .next t ∧ t.phase = .running)

/-- The record of the last step is an output only: no step depends on it (R163: a diagnostic "is never read by any rule";
R13). -/
def Obligations.RecordIsAnOutputOnly : Prop :=
  ∀ (s : State) (r : StepRecord), step { s with out := r } = step s

/-- What the collaborators answer reaches the returned byte and nothing else: with other answers the step leaves the same
block and session, makes the same calls and raises the same diagnostic (R7, R100). -/
def Obligations.AnswersReachOnlyTheReturnedByte : Prop :=
  ∀ (s t : State) (ans : List Byte) (n : Nat), step s = .next t →
    ∃ u, step { s with answers := ans, draws := n } = .next u ∧
      u.block = t.block ∧ u.session = t.session ∧ u.phase = t.phase ∧ u.pending = t.pending ∧
      u.out.calls = t.out.calls ∧ u.out.diag = t.out.diag ∧ u.out.data.isSome = t.out.data.isSome

/-- No step changes the session's constants (R180 corner case 5, D5). -/
def Obligations.NoStepChangesTheSession : Prop :=
  ∀ s t : State, step s = .next t → t.session = s.session

/-! ### Read bands -/

/-- `RD.ROMX` (R101): one call of the ROM store at `(a − 0x4000) + 0x4000 × currentRomBank`, whatever the other registers
hold. Inside the ROM's size its constant byte, at or beyond it any byte of the environment. -/
def Obligations.RomWindowReadReturnsTheStoresByte : Prop :=
  ∀ (s : State) (a : Addr), 0x4000 ≤ a.toNat → a.toNat < 0x8000 →
    (∀ cm, decodeOperation cm (.read a) = .rdRomx a) ∧
    ∃ (t : State) (off : RomOffset), exec (.rdRomx a) s = .next t ∧
      off.toNat = (a.toNat - 0x4000) + 0x4000 * s.block.currentRomBank.toNat ∧
      t.out.calls = [.romReadByte off] ∧ t.out.diag = .none ∧ t.block = s.block ∧
      (off.toNat < s.session.romSize → t.out.data = some (Config.romByte off) ∧ s.SameSurroundings t) ∧
      (s.session.romSize ≤ off.toNat → t.out.data = some s.answer ∧ s.TookOneAnswer t)

/-- `RD.CVRAM` (R102), `RD.CWRAM` (R104), `RD.UNUSED_FWD` (R106), `RD.GEN` (R107): one mediator read at the raw address, whose
answer is returned. -/
def Obligations.MediatorReadsForwardTheRawAddress : Prop :=
  ∀ (s : State) (a : Addr) (i : Instr) (r : MediatorRead),
    (i, r) ∈ [(Instr.rdCvram a, MediatorRead.colorVideoRAM a false), (Instr.rdCwram a, MediatorRead.colorWorkRAM a),
      (Instr.rdUnusedFwd a, MediatorRead.generic a), (Instr.rdGen a, MediatorRead.generic a)] →
    (∀ cm, i.wellFormed cm = true → decodeOperation cm (.read a) = i) ∧
    ∃ t, exec i s = .next t ∧ t.out = { data := some s.answer, calls := [.medRead r], diag := .none } ∧
      t.block = s.block ∧ s.TookOneAnswer t

/-- `RD.XRAM` (R103): the byte of the selected bank when RAM is enabled, else `0x00` and the diagnostic; no call. -/
def Obligations.ExternalRamReadReturnsByteOrSentinel : Prop :=
  ∀ (s : State) (a : Addr), 0xA000 ≤ a.toNat → a.toNat < 0xC000 →
    (∀ cm, decodeOperation cm (.read a) = .rdXram a) ∧
    ∃ t, exec (.rdXram a) s = .next t ∧ t.out.calls = [] ∧ t.block = s.block ∧ s.SameSurroundings t ∧
      (s.block.ramEnabled = true → t.out.diag = .none ∧
        t.out.data =
          some (Memory.read s.block.ramBanks ((a.toNat - 0xA000) + 0x2000 * s.block.currentRamBank.toNat))) ∧
      (s.block.ramEnabled = false → t.out.diag = .xramRdDisabled ∧ t.out.data = some 0x00)

/-- `RD.OPENBUS` (R105): bit 2 of `a + ((a >> 4) − 0x0FEA)` selects `0x00` or `0xFF`; nothing is called. -/
def Obligations.OpenBusReadIsComputedFromTheAddress : Prop :=
  ∀ (s : State) (a : Addr), 0xFEA0 ≤ a.toNat → a.toNat < 0xFF00 →
    decodeOperation false (.read a) = .rdOpenbus a ∧
    ∃ t, exec (.rdOpenbus a) s = .next t ∧
      t.out = { data := some (if (a.toNat + (a.toNat / 16 - 0x0FEA)) / 4 % 2 = 1 then 0x00 else 0xFF), calls := [],
                diag := .none } ∧
      t.block = s.block ∧ s.SameSurroundings t

/-- "Each row of 16 is the previous one shifted left by one place" (R105 corner case 2): the byte at the next row's column
`c` is the byte at this row's column `c + 1`. -/
def Obligations.OpenBusRowsShiftByOne : Prop :=
  ∀ (s t u : State) (a : Addr) (rest : List Operation),
    s.phase = .running → s.block.isColorMode = false → 0xFEA0 ≤ a.toNat → a.toNat < 0xFEF0 → a.toNat % 16 < 15 →
    step { s with pending := .read (a + 16) :: rest } = .next t → step { s with pending := .read (a + 1) :: rest } = .next u →
    t.out.data = u.out.data ∧ t.out.data.isSome = true

/-- Every `Read` after the first `Reset`: it returns one byte, writes no state of the block, makes at most one call, and
raises a diagnostic exactly when it reads the external-RAM window with RAM disabled (R100). -/
def Obligations.ReadsWriteNoStateOfTheBlock : Prop :=
  ∀ (s : State) (a : Addr) (rest : List Operation), s.phase = .running → s.pending = .read a :: rest →
    ∃ t, step s = .next t ∧ t.block = s.block ∧ t.session = s.session ∧ t.phase = s.phase ∧ t.pending = rest ∧
      t.out.data.isSome = true ∧ t.out.calls.length ≤ 1 ∧
      t.out.diag = (if 0xA000 ≤ a.toNat ∧ a.toNat < 0xC000 ∧ s.block.ramEnabled = false then .xramRdDisabled else .none)

/-- Reads served by the block itself are idempotent: two in a row return the same byte; so are ROM-window reads inside the
ROM's size (R54). -/
def Obligations.OwnReadsAreIdempotent : Prop :=
  ∀ (s : State) (a : Addr) (rest : List Operation), s.phase = .running → s.pending = .read a :: .read a :: rest →
    (0xA000 ≤ a.toNat ∧ a.toNat < 0xC000) ∨
      (s.block.isColorMode = false ∧ 0xFEA0 ≤ a.toNat ∧ a.toNat < 0xFF00) ∨
      (0x4000 ≤ a.toNat ∧ a.toNat < 0x8000 ∧
        (a.toNat - 0x4000) + 0x4000 * s.block.currentRomBank.toNat < s.session.romSize) →
    ∃ t u, step s = .next t ∧ step t = .next u ∧ u.out = t.out ∧ u.answers = s.answers ∧ u.draws = s.draws

/-- The read map (R56): every address is in exactly one row, and a `Read` of it has the row's band, makes the row's calls
and returns the row's byte: the block's own, the ROM store's inside its size, or the collaborator's answer, whatever it
is. -/
def Obligations.ReadMapHoldsForEveryAddress : Prop :=
  ∀ a : Addr, (readMap.filter fun r => r.has a).length = 1 ∧
    ∀ (r : ReadMapRow) (s : State) (rest : List Operation), r ∈ readMap → r.has a = true →
      s.phase = .running → s.pending = .read a :: rest →
      (decodeOperation s.block.isColorMode (.read a)).band = (if s.block.isColorMode then r.colorBand else r.plainBand) ∧
      ∃ t, step s = .next t ∧
        t.out.calls = (if s.block.isColorMode then r.color else r.plain).calls s.block a ∧
        t.out.data = some ((if s.block.isColorMode then r.color else r.plain).byte s a)

/-! ### Control-register write bands -/

/-- `WR.RAMG` (R121): the latch becomes `(v & 0x0F) == 0x0A` when the cartridge has RAM, and is unaffected when not;
everything else is as before. -/
def Obligations.RamEnableWriteSetsTheLatch : Prop :=
  ∀ (s : State) (a : Addr) (v : Byte), a.toNat < 0x2000 →
    (∀ cm, decodeOperation cm (.write a v) = .wrRamg a v) ∧
    ∃ t, exec (.wrRamg a v) s = .next t ∧
      (s.session.hasRam = true → (t.block.ramEnabled = true ↔ v.toNat % 16 = 10)) ∧
      (s.session.hasRam = false → t.block.ramEnabled = s.block.ramEnabled) ∧
      t.block = { s.block with ramEnabled := t.block.ramEnabled } ∧
      t.out = { data := none, calls := [], diag := .none } ∧ s.SameSurroundings t

/-- `WR.ROMB` (R122): `currentRomBank` becomes `max(1, v & 0x7F)`; everything else is as before. -/
def Obligations.RomBankWriteSelectsNonzeroBank : Prop :=
  ∀ (s : State) (a : Addr) (v : Byte), 0x2000 ≤ a.toNat → a.toNat < 0x4000 →
    (∀ cm, decodeOperation cm (.write a v) = .wrRomb a v) ∧
    ∃ t, exec (.wrRomb a v) s = .next t ∧ t.block.currentRomBank.toNat = max 1 (v.toNat % 128) ∧
      t.block = { s.block with currentRomBank := t.block.currentRomBank } ∧
      t.out = { data := none, calls := [], diag := .none } ∧ s.SameSurroundings t

/-- `WR.RAMB` (R124): `currentRamBank` becomes `v & 0x03` for `v` outside `[0x08, 0x0C]`; everything else is as before. -/
def Obligations.RamBankWriteSelectsTheLowTwoBits : Prop :=
  ∀ (s : State) (a : Addr) (v : Byte), 0x4000 ≤ a.toNat → a.toNat < 0x6000 → v.toNat < 0x08 ∨ 0x0C < v.toNat →
    (∀ cm, decodeOperation cm (.write a v) = .wrRamb a v) ∧
    ∃ t, exec (.wrRamb a v) s = .next t ∧ t.block.currentRamBank.toNat = v.toNat % 4 ∧
      t.block = { s.block with currentRamBank := t.block.currentRamBank } ∧
      t.out = { data := none, calls := [], diag := .none } ∧ s.SameSurroundings t

/-- `WR.RTCSEL` (R123) and `WR.LATCH` (R125) run and change nothing: no register, no byte of RAM, no call, no diagnostic. -/
def Obligations.ClockStubWritesAreInert : Prop :=
  ∀ (s : State) (a : Addr) (v : Byte),
    (0x4000 ≤ a.toNat → a.toNat < 0x6000 → 0x08 ≤ v.toNat → v.toNat ≤ 0x0C →
      (∀ cm, decodeOperation cm (.write a v) = .wrRtcsel a v) ∧
      ∃ t, exec (.wrRtcsel a v) s = .next t ∧ t.block = s.block ∧
        t.out = { data := none, calls := [], diag := .none } ∧ s.SameSurroundings t) ∧
    (0x6000 ≤ a.toNat → a.toNat < 0x8000 →
      (∀ cm, decodeOperation cm (.write a v) = .wrLatch a v) ∧
      ∃ t, exec (.wrLatch a v) s = .next t ∧ t.block = s.block ∧
        t.out = { data := none, calls := [], diag := .none } ∧ s.SameSurroundings t)

/-- Any byte may be written to any address of a port, in either mode, and the stored values are legal ones (R33, with the
stored values of R31): bank numbers 1 to 127, 0 to 3. -/
def Obligations.AnyByteMayBeWrittenToAnyPort : Prop :=
  ∀ (s : State) (a : Addr) (v : Byte) (rest : List Operation), s.phase = .running → s.pending = .write a v :: rest →
    a.toNat < 0x8000 →
    ∃ t, step s = .next t ∧
      (t.block.ramEnabled =
        if a.toNat < 0x2000 ∧ s.session.hasRam = true then decide (v.toNat % 16 = 10) else s.block.ramEnabled) ∧
      (t.block.currentRomBank.toNat =
        if 0x2000 ≤ a.toNat ∧ a.toNat < 0x4000 then max 1 (v.toNat % 128) else s.block.currentRomBank.toNat) ∧
      (t.block.currentRamBank.toNat =
        if 0x4000 ≤ a.toNat ∧ a.toNat < 0x6000 ∧ (v.toNat < 0x08 ∨ 0x0C < v.toNat) then v.toNat % 4
        else s.block.currentRamBank.toNat)

/-- A control write returns nothing, calls nothing, raises nothing, writes at most one register and no byte of RAM, and is
decoded the same in both modes (R120). -/
def Obligations.ControlWritesTouchOneRegisterAtMost : Prop :=
  ∀ (s : State) (a : Addr) (v : Byte) (rest : List Operation), s.phase = .running → s.pending = .write a v :: rest →
    a.toNat < 0x8000 →
    decodeOperation true (.write a v) = decodeOperation false (.write a v) ∧
    ∃ t, step s = .next t ∧ t.out = { data := none, calls := [], diag := .none } ∧
      t.block.ramBanks = s.block.ramBanks ∧ t.block.isColorMode = s.block.isColorMode ∧
      ((t.block.currentRomBank = s.block.currentRomBank ∧ t.block.currentRamBank = s.block.currentRamBank) ∨
       (t.block.currentRomBank = s.block.currentRomBank ∧ t.block.ramEnabled = s.block.ramEnabled) ∨
       (t.block.currentRamBank = s.block.currentRamBank ∧ t.block.ramEnabled = s.block.ramEnabled)) ∧
      ({ s with pending := rest } : State).SameSurroundings t

/-- The same byte written to the same address of a control port or of the external-RAM window twice in a row leaves the
block that writing it once leaves (R55). -/
def Obligations.OwnWritesAreIdempotent : Prop :=
  ∀ (s : State) (a : Addr) (v : Byte) (rest : List Operation), s.phase = .running →
    Memory.wf s.block.ramBanks = true → s.pending = .write a v :: .write a v :: rest →
    a.toNat < 0x8000 ∨ (0xA000 ≤ a.toNat ∧ a.toNat < 0xC000) →
    ∃ t u, step s = .next t ∧ step t = .next u ∧ u.block = t.block

/-! ### Data write bands -/

/-- `WR.CVRAM` (R141), `WR.CWRAM_TOP` (R145), `WR.UNUSED` (R148), `WR.GEN` (R149): one mediator write of the raw byte at the raw
address; nothing of the block changes. -/
def Obligations.SingleForwardsWriteTheRawByteOnce : Prop :=
  ∀ (s : State) (a : Addr) (v : Byte) (i : Instr) (w : MediatorWrite),
    (i, w) ∈ [(Instr.wrCvram a v, MediatorWrite.colorVideoRAM a v), (Instr.wrCwramTop a v, MediatorWrite.colorWorkRAM a v),
      (Instr.wrUnused a v, MediatorWrite.generic a v), (Instr.wrGen a v, MediatorWrite.generic a v)] →
    (∀ cm, i.wellFormed cm = true → decodeOperation cm (.write a v) = i) ∧
    ∃ t, exec i s = .next t ∧ t.out = { data := none, calls := [.medWrite w], diag := .none } ∧
      t.block = s.block ∧ s.SameSurroundings t

/-- `WR.XRAM` (R142): when RAM is enabled the byte at the window's index in the selected bank becomes `v` and every other byte
of `ramBanks` reads as before; when not, the write is dropped with the diagnostic. No register changes, nothing is called. -/
def Obligations.ExternalRamWriteStoresOneByteOrIsDropped : Prop :=
  ∀ (s : State) (a : Addr) (v : Byte), Memory.wf s.block.ramBanks = true → 0xA000 ≤ a.toNat → a.toNat < 0xC000 →
    (∀ cm, decodeOperation cm (.write a v) = .wrXram a v) ∧
    (s.xramIndexOf a).toNat = (a.toNat - 0xA000) + 0x2000 * s.block.currentRamBank.toNat ∧
    ∃ t, exec (.wrXram a v) s = .next t ∧ t.out.data = none ∧ t.out.calls = [] ∧ s.block.SameRegisters t.block ∧
      s.SameSurroundings t ∧ Memory.wf t.block.ramBanks = true ∧
      (s.block.ramEnabled = true → t.out.diag = .none ∧ t.xramByte (s.xramIndexOf a) = v ∧
        ∀ j : XramIndex, j ≠ s.xramIndexOf a → t.xramByte j = s.xramByte j) ∧
      (s.block.ramEnabled = false → t.out.diag = .xramWrDisabled ∧ t.block = s.block)

/-- `WR.WRAM_ECHO_UP` (R143), `WR.CWRAM_ECHO_UP` (R144), `WR.ECHO_DOWN` (R146), `WR.ECHO_CWRAM_DOWN` (R147): two mediator writes of
the raw byte, in this order (the order is the spec's decision D9, log entry 10); nothing of the block changes. -/
def Obligations.MirroredStoresWriteBothCopies : Prop :=
  ∀ (s : State) (a : Addr) (v : Byte) (cm : Bool) (i : Instr) (w x : MediatorWrite), i.wellFormed cm = true →
    (i, w, x) ∈
      [(Instr.wrWramEchoUp a v, MediatorWrite.generic (a + 0x2000) v, MediatorWrite.generic a v),
       (Instr.wrCwramEchoUp a v, MediatorWrite.colorWorkRAM a v, MediatorWrite.generic (a + 0x2000) v),
       (Instr.wrEchoDown a v, MediatorWrite.generic (a - 0x2000) v, MediatorWrite.generic a v),
       (Instr.wrEchoCwramDown a v, MediatorWrite.colorWorkRAM (a - 0x2000) v, MediatorWrite.generic a v)] →
    decodeOperation cm (.write a v) = i ∧
    ∃ t, exec i s = .next t ∧ t.out = { data := none, calls := [.medWrite w, .medWrite x], diag := .none } ∧
      t.block = s.block ∧ s.SameSurroundings t

/-- A write to `[0x8000, 0x10000)` changes no register, changes `ramBanks` only in the external-RAM window, makes at most two
calls, each a mediator write of the raw byte, and returns nothing (R140). -/
def Obligations.DataWritesChangeNoRegister : Prop :=
  ∀ (s : State) (a : Addr) (v : Byte) (rest : List Operation), s.phase = .running → s.pending = .write a v :: rest →
    0x8000 ≤ a.toNat →
    ∃ t, step s = .next t ∧ s.block.SameRegisters t.block ∧ t.out.data = none ∧ t.out.calls.length ≤ 2 ∧
      (∀ c ∈ t.out.calls, ∃ b, c = .medWrite (.generic b v) ∨ c = .medWrite (.colorVideoRAM b v) ∨
        c = .medWrite (.colorWorkRAM b v)) ∧
      (¬ (0xA000 ≤ a.toNat ∧ a.toNat < 0xC000) → t.block.ramBanks = s.block.ramBanks ∧ t.out.diag = .none) ∧
      ({ s with pending := rest } : State).SameSurroundings t

/-- The write map (R57): every address is in exactly one row, and a `Write` to it leaves the row's block and makes the row's
calls. The order of two calls is the spec's decision D9 (log entry 10). -/
def Obligations.WriteMapHoldsForEveryAddress : Prop :=
  ∀ a : Addr, (writeMap.filter fun r => r.has a).length = 1 ∧
    ∀ (r : WriteMapRow) (s : State) (v : Byte) (rest : List Operation), r ∈ writeMap → r.has a = true →
      s.phase = .running → s.pending = .write a v :: rest →
      ∃ t, step s = .next t ∧
        t.out.calls = (if s.block.isColorMode then r.color else r.plain).calls a v ∧
        t.block = (if s.block.isColorMode then r.color else r.plain).block s.session.hasRam s.block a v

/-- The echo (R67): a write to `[0xC000, 0xDE00)` in non-color mode, or to `[0xC000, 0xD000)` in color mode, leaves `v` at the
address and at `address + 0x2000` of a generic store that keeps what is written, and every other address of it alone; and a
later read of either address is a generic read at the raw address. -/
def Obligations.EchoKeepsBothCopiesEqual : Prop :=
  ∀ (s : State) (a : Addr) (v : Byte) (rest : List Operation) (g : Addr → Byte),
    s.phase = .running → s.pending = .write a v :: rest → 0xC000 ≤ a.toNat → a.toNat < 0xDE00 →
    s.block.isColorMode = false ∨ a.toNat < 0xD000 →
    ∃ t, step s = .next t ∧ genericAfter g t.out.calls a = v ∧ genericAfter g t.out.calls (a + 0x2000) = v ∧
      (∀ x, x ≠ a → x ≠ a + 0x2000 → genericAfter g t.out.calls x = g x) ∧
      decodeOperation s.block.isColorMode (.read a) = .rdGen a ∧
      decodeOperation s.block.isColorMode (.read (a + 0x2000)) = .rdGen (a + 0x2000)

/-- In color mode the block never writes the generic store at `[0xD000, 0xDE00)`, whatever the operation (R191). -/
def Obligations.ColorModeSparesTheGenericSwitchableWorkRam : Prop :=
  ∀ (s t : State) (b : Addr) (v : Byte), s.block.isColorMode = true → step s = .next t →
    Call.medWrite (.generic b v) ∈ t.out.calls → ¬ (0xD000 ≤ b.toNat ∧ b.toNat < 0xDE00)

/-! ### Diagnostics and gating -/

/-- An access to the external-RAM window while RAM is disabled is not fatal: a read returns `0x00`, a write is dropped, the
block is as before and the step is diagnosed; and no other step is (R161). -/
def Obligations.DisabledRamAccessIsDiagnosedOnly : Prop :=
  (∀ (s : State) (op : Operation) (rest : List Operation), s.phase = .running → s.pending = op :: rest →
    op.inXramWindow = true → s.block.ramEnabled = false →
    ∃ t, step s = .next t ∧ t.block = s.block ∧ ({ s with pending := rest } : State).SameSurroundings t ∧
      t.out.calls = [] ∧
      ((∃ a, op = .read a) → t.out.data = some 0x00 ∧ t.out.diag = .xramRdDisabled) ∧
      ((∃ a v, op = .write a v) → t.out.data = none ∧ t.out.diag = .xramWrDisabled)) ∧
  (∀ s t : State, step s = .next t → t.out.diag ≠ .none →
    ∃ op rest, s.pending = op :: rest ∧ op.inXramWindow = true ∧ s.block.ramEnabled = false)

/-- `ramEnabled` gates the external-RAM window and nothing else: for any other operation the record, the surroundings and
the other four items of the block do not depend on it (R24). -/
def Obligations.RamEnableGatesNothingElse : Prop :=
  ∀ (s : State) (op : Operation) (rest : List Operation) (b : Bool), s.phase = .running → s.pending = op :: rest →
    op.inXramWindow = false →
    ∃ t u, step s = .next t ∧ step { s with block := { s.block with ramEnabled := b } } = .next u ∧
      u.out = t.out ∧ u.block = { t.block with ramEnabled := u.block.ramEnabled } ∧ t.SameSurroundings u

/-- A byte of `ramBanks` changes only by a `Reset` or by an enabled write of the window at that byte's index (R21). -/
def Obligations.BytesChangeOnlyByStoreOrReset : Prop :=
  ∀ (s t : State) (i : XramIndex), step s = .next t → t.xramByte i ≠ s.xramByte i → s.WritesByte i

/-- Without RAM in the cartridge, in every state that meets the invariant: the window reads `0x00`, and no RAM-enable write
changes the block (R188). -/
def Obligations.WithoutRamTheWindowReadsZero : Prop :=
  ∀ (s : State) (a : Addr) (v : Byte) (rest : List Operation), s.Inv → s.session.hasRam = false → s.phase = .running →
    (s.pending = .read a :: rest → 0xA000 ≤ a.toNat → a.toNat < 0xC000 →
      ∃ t, step s = .next t ∧ t.out.data = some 0x00) ∧
    (s.pending = .write a v :: rest → a.toNat < 0x2000 → ∃ t, step s = .next t ∧ t.block = s.block)

/-! ### Reset -/

/-- `RESET` (R180): all five items, whatever the state before; no call, no diagnostic, no answer taken; the session is
unchanged. `rombReset` is the parameter `ROMB_RESET`, whichever of its two values it has. -/
def Obligations.ResetSetsAllFiveItems : Prop :=
  ∀ (s : State) (c : Bool), (∀ cm, decodeOperation cm (.reset c) = .reset c) ∧
    ∃ t, exec (.reset c) s = .next t ∧ t.block.isColorMode = c ∧ t.block.currentRamBank = 0 ∧
      t.block.currentRomBank.toNat = s.session.rombReset.val ∧ t.block.ramEnabled = false ∧
      (∀ i : XramIndex, t.xramByte i = 0x00) ∧ t.block.ramBanks = [] ∧
      t.out = { data := none, calls := [], diag := .none } ∧
      t.session = s.session ∧ t.pending = s.pending ∧ t.answers = s.answers ∧ t.draws = s.draws ∧ t.phase = .running

/-- The state after reset is what a `Reset` leaves: from any state whose session is the reset state's, `Reset` with
`colorMode` false (the argument is the model's choice, log entry 4) leaves the block of `State.reset`. -/
def Obligations.ResetStateIsWhatResetLeaves : Prop :=
  ∀ (s : State) (rest : List Operation), s.session = State.reset.session → s.pending = .reset false :: rest →
    ∃ t, step s = .next t ∧ t.block = State.reset.block ∧ t.out = State.reset.out ∧ t.phase = State.reset.phase

/-- Only `Reset` changes `isColorMode`, and only `Reset` can leave `currentRomBank` 0 where it was not (R25, R180 corner
case 2). -/
def Obligations.OnlyResetChangesTheMode : Prop :=
  ∀ s t : State, step s = .next t → (∀ op rest, s.pending = op :: rest → op.isReset = false) →
    t.block.isColorMode = s.block.isColorMode ∧ (t.block.currentRomBank = 0 → s.block.currentRomBank = 0)

/-! ### Ordering and runs -/

/-- A control write is in force for the very next operation (R61, R197). After a write of `v` to the ROM-bank port the next
read of the ROM window calls the store at the new bank. After one to the RAM-bank port the next enabled access of the
external-RAM window is to the new bank's byte. After one to the RAM-enable port the next access of that window, a read or a
write, is gated by the new latch (which without RAM in the cartridge is the old one). -/
def Obligations.BankSwitchIsInForceForTheNextRead : Prop :=
  ∀ (s : State) (a b : Addr) (v w : Byte) (op : Operation) (rest : List Operation), s.phase = .running →
    s.pending = .write a v :: op :: rest →
    (0x2000 ≤ a.toNat → a.toNat < 0x4000 → op = .read b → 0x4000 ≤ b.toNat → b.toNat < 0x8000 →
      ∃ (t u : State) (off : RomOffset), step s = .next t ∧ step t = .next u ∧
        off.toNat = (b.toNat - 0x4000) + 0x4000 * max 1 (v.toNat % 128) ∧ u.out.calls = [.romReadByte off]) ∧
    (0x4000 ≤ a.toNat → a.toNat < 0x6000 → v.toNat < 0x08 ∨ 0x0C < v.toNat → 0xA000 ≤ b.toNat → b.toNat < 0xC000 →
      s.block.ramEnabled = true → op = .read b ∨ op = .write b w →
      ∃ t u : State, step s = .next t ∧ step t = .next u ∧ u.out.diag = .none ∧
        (op = .read b → u.out.data =
          some (Memory.read s.block.ramBanks ((b.toNat - 0xA000) + 0x2000 * (v.toNat % 4)))) ∧
        (op = .write b w → u.block.ramBanks =
          Memory.write s.block.ramBanks ((b.toNat - 0xA000) + 0x2000 * (v.toNat % 4)) w)) ∧
    (a.toNat < 0x2000 → 0xA000 ≤ b.toNat → b.toNat < 0xC000 → op = .read b ∨ op = .write b w →
      ∃ t u : State, step s = .next t ∧ step t = .next u ∧
        (op = .read b →
          u.out.data = some (if s.latchAfter v then
              Memory.read s.block.ramBanks ((b.toNat - 0xA000) + 0x2000 * s.block.currentRamBank.toNat)
            else 0x00) ∧
          u.out.diag = if s.latchAfter v then .none else .xramRdDisabled) ∧
        (op = .write b w →
          u.block.ramBanks = (if s.latchAfter v then
              Memory.write s.block.ramBanks ((b.toNat - 0xA000) + 0x2000 * s.block.currentRamBank.toNat) w
            else s.block.ramBanks) ∧
          u.out.diag = if s.latchAfter v then .none else .xramWrDisabled))

/-- Every step keeps the invariant (R26 items d and e): the byte store's canonical form, and without RAM in the cartridge a
latch that is off and bytes that are all 0. -/
def Obligations.StepKeepsTheInvariant : Prop :=
  ∀ s t : State, s.Inv → step s = .next t → t.Inv

/-- The state after reset meets the invariant, for either value of `HAS_RAM`. -/
def Obligations.ResetMeetsTheInvariant : Prop :=
  ∀ h : Bool, ({ State.reset with session := { State.reset.session with hasRam := h } } : State).Inv

/-- Along every history, `isColorMode` is the argument of the most recent `Reset` (R26 item f). -/
def Obligations.ModeIsThatOfTheLastReset : Prop :=
  ∀ (s : State) (ops : List Operation), s.phase = .running →
    ∃ t, runOps s ops = .next t ∧ t.block.isColorMode = lastColorMode s.block.isColorMode ops

/-- Along every history that starts with a `Reset` and has no other: `currentRomBank` is 0 exactly when `ROMB_RESET` is 0 and no
write to `[0x2000, 0x4000)` has happened (R26 item a, R186). -/
def Obligations.RomBankIsZeroExactlyUntilFirstSelected : Prop :=
  ∀ (s : State) (c : Bool) (ops : List Operation), (∀ op ∈ ops, op.isReset = false) →
    ∃ t, runOps s (.reset c :: ops) = .next t ∧
      (t.block.currentRomBank = 0 ↔ s.session.rombReset = 0 ∧ ∀ op ∈ ops, op.selectsRomBank = false)

/-- External-RAM round trip (R66): a byte written to the window in bank `b` is read back, after any further operations none
of which is a `Reset` or stores to that same byte, when `b` is selected again: it is returned if RAM is then enabled (it may
have been disabled in between), and `0x00` is returned if it is not. -/
def Obligations.ExternalRamRoundTrip : Prop :=
  ∀ (s s1 t : State) (a : Addr) (v : Byte) (mid : List Operation),
    s.phase = .running → Memory.wf s.block.ramBanks = true → s.block.ramEnabled = true →
    0xA000 ≤ a.toNat → a.toNat < 0xC000 →
    step { s with pending := .write a v :: (mid ++ [.read a]) } = .next s1 →
    (∀ n < mid.length, ∀ u, runSteps n s1 = .next u → ¬ u.WritesByte (s.xramIndexOf a)) →
    runSteps mid.length s1 = .next t →
    t.block.currentRamBank = s.block.currentRamBank →
    ∃ r, step t = .next r ∧ (t.block.ramEnabled = true → r.out.data = some v) ∧
      (t.block.ramEnabled = false → r.out.data = some 0x00)

/-! ### Ports -/

/-- The ports in one step (R12, the spec's decision D2; log entry 19): `DO` is driven exactly for a `Read`; a step that drives
`ROM_A` returns the byte of `ROM_D`, one that strobes `M_RE` that of `M_RD`, at the address on `A`; each strobe of `M_WE` carries
the byte on `DI`; there are at most two; one that writes the RAM-enable port reads `HAS_RAM`. -/
def Obligations.PortsCarryTheStepsData : Prop :=
  ∀ (s : State) (op : Operation) (rest : List Operation), s.phase = .running → s.pending = op :: rest →
    ∃ t, step s = .next t ∧ s.inPorts.operation? = some op ∧
      t.out.outPorts.DO.isSome = s.inPorts.RD ∧
      (t.out.outPorts.ROM_A.isSome = true → t.out.outPorts.DO = some s.inPorts.ROM_D ∧
        t.out.outPorts.ROM_A = some (s.romOffsetOf s.inPorts.A)) ∧
      (∀ m ∈ t.out.outPorts.M, m.M_RE ≠ m.M_WE ∧
        (m.M_RE = true → m.M_A = s.inPorts.A ∧ t.out.outPorts.DO = some s.inPorts.M_RD) ∧
        (m.M_WE = true → s.inPorts.WR = true ∧ m.M_WD = some s.inPorts.DI)) ∧
      t.out.outPorts.M.length ≤ 2 ∧
      (s.inPorts.WR = true → s.inPorts.A.toNat < 0x2000 →
        t.block.ramEnabled =
          if s.inPorts.HAS_RAM then decide (s.inPorts.DI.toNat % 16 = 10) else s.block.ramEnabled)
end

