-- ==== Sys2Proof/Laws/Decode.lean ====
section
/-! SUPPORT. The fields of a packed key, and what the decoder does with them; the byte layout gives the key back. -/

namespace Sys2Proof

variable (cm wr : Bool) (a : Addr) (d v : Byte)

theorem mkKey_toNat :
    (mkKey cm wr a d).toNat = cm.toNat * 2 ^ 25 + wr.toNat * 2 ^ 24 + a.toNat * 2 ^ 8 + d.toNat := by
  have := a.isLt; have := d.isLt; have := cm.toNat_lt; have := wr.toNat_lt
  rw [mkKey, BitVec.toNat_ofNat]
  omega

@[simp] theorem mkKey_cm : (mkKey cm wr a d).cm = cm := by
  have := a.isLt; have := d.isLt
  rw [Key.cm, mkKey_toNat]
  cases cm <;> cases wr <;> simp <;> omega

@[simp] theorem mkKey_wr : (mkKey cm wr a d).wr = wr := by
  have := a.isLt; have := d.isLt
  rw [Key.wr, mkKey_toNat]
  cases cm <;> cases wr <;> simp <;> omega

@[simp] theorem mkKey_addr : (mkKey cm wr a d).addr = a := by
  have := a.isLt; have := d.isLt; have := cm.toNat_lt; have := wr.toNat_lt
  apply BitVec.eq_of_toNat_eq
  rw [Key.addr, mkKey_toNat, BitVec.toNat_ofNat]
  omega

@[simp] theorem mkKey_data : (mkKey cm wr a d).data = d := by
  have := a.isLt; have := d.isLt; have := cm.toNat_lt; have := wr.toNat_lt
  apply BitVec.eq_of_toNat_eq
  rw [Key.data, mkKey_toNat, BitVec.toNat_ofNat]
  omega

@[simp] theorem decodeKey_mkKey_read : decodeKey (mkKey cm false a d) = decodeRead cm a := by
  simp [decodeKey]

@[simp] theorem decodeKey_mkKey_write : decodeKey (mkKey cm true a d) = decodeWrite cm a d := by
  simp [decodeKey]

@[simp] theorem decodeOperation_read : decodeOperation cm (.read a) = decodeRead cm a := by
  simp [decodeOperation]

@[simp] theorem decodeOperation_write : decodeOperation cm (.write a v) = decodeWrite cm a v := by
  simp [decodeOperation]

@[simp] theorem decodeOperation_reset (c : Bool) : decodeOperation cm (.reset c) = .reset c := rfl

theorem inRange_iff (lo hi : Nat) (a : Addr) : inRange lo hi a = true ↔ lo ≤ a.toNat ∧ a.toNat < hi := by
  simp [inRange]

theorem selectsClock_iff (v : Byte) : selectsClock v = true ↔ 0x08 ≤ v.toNat ∧ v.toNat ≤ 0x0C := by
  simp [selectsClock]

/-- The bytes of a number give back its low bytes. -/
theorem ofLeBytes_leBytes (n w : Nat) : ofLeBytes (leBytes n w) = w % 256 ^ n := by
  induction n generalizing w with
  | zero => simp [leBytes, ofLeBytes, Nat.mod_one]
  | succ n ih =>
    have hw : w % 256 ^ (n + 1) = w % 256 + 256 * (w / 256 % 256 ^ n) := by
      rw [Nat.pow_succ, Nat.mul_comm (256 ^ n) 256, Nat.mod_mul]
    rw [hw, leBytes, ofLeBytes, ih, BitVec.toNat_ofNat]

end Sys2Proof
end

