-- ==== Sys2Proof/Laws/Memory.lean ====
section
/-! SUPPORT. The laws of the byte store: a read after a write, a write leaves every other byte alone, every operation
keeps the canonical form, and equal contents are equal lists. -/

namespace Sys2Proof.Machine

variable {m n : Memory} {lo i j : Nat} {k : Nat} {b v : Byte}

@[simp] theorem Memory.read_nil : Memory.read [] i = 0 := rfl

@[simp] theorem Memory.wf_nil : Memory.wf [] = true := rfl

theorem Memory.read_cons : Memory.read ((k, b) :: m) i = if i = k then b else Memory.read m i := rfl

theorem Memory.wfFrom_cons :
    Memory.wfFrom lo ((k, b) :: m) = true ↔ lo ≤ k ∧ k < 0x8000 ∧ b ≠ 0 ∧ Memory.wfFrom (k + 1) m = true := by
  simp only [Memory.wfFrom, Bool.and_eq_true, decide_eq_true_eq, bne_iff_ne, ne_eq, and_assoc]
  exact Iff.rfl

theorem Memory.wfFrom_mono (h : Memory.wfFrom lo m = true) (hl : k ≤ lo) : Memory.wfFrom k m = true := by
  cases m with
  | nil => rfl
  | cons c m => rw [Memory.wfFrom_cons] at *; exact ⟨by omega, h.2⟩

/-- Below the lowest listed index every byte is the unlisted one. -/
theorem Memory.read_below (h : Memory.wfFrom lo m = true) (hi : i < lo) : Memory.read m i = 0 := by
  induction m generalizing lo with
  | nil => rfl
  | cons c m ih =>
    rw [Memory.wfFrom_cons] at h
    rw [Memory.read_cons, if_neg (by omega)]
    exact ih h.2.2.2 (by omega)

/-- At and above the size every byte is the unlisted one. -/
theorem Memory.read_above (h : Memory.wfFrom lo m = true) (hi : 0x8000 ≤ i) : Memory.read m i = 0 := by
  induction m generalizing lo with
  | nil => rfl
  | cons c m ih =>
    rw [Memory.wfFrom_cons] at h
    rw [Memory.read_cons, if_neg (by omega)]
    exact ih h.2.2.2

theorem Memory.wfFrom_write (h : Memory.wfFrom lo m = true) (hlo : lo ≤ i) (hi : i < 0x8000) :
    Memory.wfFrom lo (Memory.write m i v) = true := by
  induction m generalizing lo with
  | nil => unfold Memory.write; split <;> simp_all [Memory.wfFrom, Memory.size]
  | cons c m ih =>
    obtain ⟨k, b⟩ := c
    have hc := Memory.wfFrom_cons.mp h
    unfold Memory.write
    by_cases h1 : i < k
    · by_cases h2 : v = Memory.unlisted
      · simpa [h1, h2] using h
      · simp only [h1, h2, if_true, if_false]
        exact Memory.wfFrom_cons.mpr ⟨hlo, hi, h2, Memory.wfFrom_cons.mpr ⟨by omega, hc.2⟩⟩
    · by_cases h3 : i = k
      · by_cases h2 : v = Memory.unlisted
        · simpa [h3, h2] using Memory.wfFrom_mono hc.2.2.2 (by omega)
        · simp only [h2, h3, lt_irrefl, if_true, if_false]
          exact Memory.wfFrom_cons.mpr ⟨hc.1, hc.2.1, h2, hc.2.2.2⟩
      · simp only [h1, h3, if_false]
        exact Memory.wfFrom_cons.mpr ⟨hc.1, hc.2.1, hc.2.2.1, ih hc.2.2.2 (by omega)⟩

/-- A write keeps the canonical form. -/
theorem Memory.wf_write (h : Memory.wf m = true) (hi : i < 0x8000) : Memory.wf (Memory.write m i v) = true :=
  Memory.wfFrom_write h (Nat.zero_le i) hi

theorem Memory.read_write_same_from (h : Memory.wfFrom lo m = true) : Memory.read (Memory.write m i v) i = v := by
  induction m generalizing lo with
  | nil => unfold Memory.write; split <;> simp_all [Memory.read, Memory.unlisted]
  | cons c m ih =>
    obtain ⟨k, b⟩ := c
    have hc := Memory.wfFrom_cons.mp h
    unfold Memory.write
    by_cases h1 : i < k
    · by_cases h2 : v = Memory.unlisted
      · simp only [h1, h2, if_true]
        rw [Memory.read_cons, if_neg (by omega)]
        exact Memory.read_below hc.2.2.2 (by omega)
      · simp [h1, h2, Memory.read_cons]
    · by_cases h3 : i = k
      · by_cases h2 : v = Memory.unlisted
        · simp only [h2, h3, lt_irrefl, if_true, if_false]
          exact Memory.read_below hc.2.2.2 (by omega)
        · simp [h2, h3, Memory.read_cons]
      · simp only [h1, h3, if_false, Memory.read_cons]
        exact ih hc.2.2.2

/-- A read after a write to the same index gives the byte written. -/
theorem Memory.read_write_same (h : Memory.wf m = true) : Memory.read (Memory.write m i v) i = v :=
  Memory.read_write_same_from h

/-- A write leaves every other index alone. -/
theorem Memory.read_write_other (hj : j ≠ i) : Memory.read (Memory.write m i v) j = Memory.read m j := by
  induction m with
  | nil => unfold Memory.write; split <;> simp [Memory.read, hj]
  | cons c m ih =>
    obtain ⟨k, b⟩ := c
    unfold Memory.write
    split
    · split
      · rfl
      · simp [Memory.read_cons, hj]
    · split
      · split
        · simp_all [Memory.read_cons]
        · simp_all [Memory.read_cons]
      · simp [Memory.read_cons, ih]

theorem Memory.ext_from (hm : Memory.wfFrom lo m = true) (hn : Memory.wfFrom lo n = true)
    (h : ∀ i, Memory.read m i = Memory.read n i) : m = n := by
  induction m generalizing lo n with
  | nil =>
    cases n with
    | nil => rfl
    | cons c n =>
      have hc := Memory.wfFrom_cons.mp hn
      have := h c.1
      rw [Memory.read_cons, if_pos rfl] at this
      exact absurd this.symm hc.2.2.1
  | cons c m ih =>
    obtain ⟨k, b⟩ := c
    have hc := Memory.wfFrom_cons.mp hm
    cases n with
    | nil =>
      have := h k
      rw [Memory.read_cons, if_pos rfl] at this
      exact absurd this hc.2.2.1
    | cons d n =>
      obtain ⟨l, e⟩ := d
      have hd := Memory.wfFrom_cons.mp hn
      have hkl : k = l := by
        rcases Nat.lt_trichotomy k l with hlt | heq | hgt
        · have := h k
          rw [Memory.read_cons, if_pos rfl, Memory.read_cons, if_neg (by omega),
            Memory.read_below hd.2.2.2 (by omega)] at this
          exact absurd this hc.2.2.1
        · exact heq
        · have := h l
          rw [Memory.read_cons, if_neg (by omega), Memory.read_below hc.2.2.2 (by omega), Memory.read_cons,
            if_pos rfl] at this
          exact absurd this.symm hd.2.2.1
      subst hkl
      have hb : b = e := by simpa [Memory.read_cons] using h k
      subst hb
      have : m = n := ih hc.2.2.2 hd.2.2.2 fun i => by
        by_cases hi : i < k + 1
        · rw [Memory.read_below hc.2.2.2 hi, Memory.read_below hd.2.2.2 hi]
        · have := h i
          rwa [Memory.read_cons, if_neg (by omega), Memory.read_cons, if_neg (by omega)] at this
      rw [this]

/-- Two stores in canonical form that read the same everywhere are the same list. -/
theorem Memory.ext_read (hm : Memory.wf m = true) (hn : Memory.wf n = true)
    (h : ∀ i, Memory.read m i = Memory.read n i) : m = n :=
  Memory.ext_from hm hn h

/-- Writing the same byte twice is writing it once. -/
theorem Memory.write_write (h : Memory.wf m = true) (hi : i < 0x8000) :
    Memory.write (Memory.write m i v) i v = Memory.write m i v := by
  refine Memory.ext_read (Memory.wf_write (Memory.wf_write h hi) hi) (Memory.wf_write h hi) fun j => ?_
  by_cases hj : j = i
  · subst hj; rw [Memory.read_write_same (Memory.wf_write h hi), Memory.read_write_same h]
  · rw [Memory.read_write_other hj]

end Sys2Proof.Machine
end

