-- ==== Sys2Proof/Laws/Operands.lean ====
section
/-! SUPPORT. One lemma per operand form: the exact number it is, with no narrowing left (spec/20_memory.md R60). -/

namespace Sys2Proof.Machine

theorem romOffset_toNat {a : Addr} {n : BitVec 7} (h1 : 0x4000 ≤ a.toNat) (h2 : a.toNat < 0x8000) :
    (romOffset a n).toNat = (a.toNat - 0x4000) + 0x4000 * n.toNat := by
  have := n.isLt
  simp only [romOffset, BitVec.toNat_ofNat, BitVec.toNat_sub, BitVec.ofNat_eq_ofNat]
  omega

theorem xramIndex_toNat {a : Addr} {n : BitVec 2} (h1 : 0xA000 ≤ a.toNat) (h2 : a.toNat < 0xC000) :
    (xramIndex a n).toNat = (a.toNat - 0xA000) + 0x2000 * n.toNat := by
  have := n.isLt
  simp only [xramIndex, BitVec.toNat_ofNat, BitVec.toNat_sub, BitVec.ofNat_eq_ofNat]
  omega

theorem mirrorUp_toNat {a : Addr} (h : a.toNat < 0xE000) : (mirrorUp a).toNat = a.toNat + 0x2000 := by
  simp only [mirrorUp, BitVec.toNat_add, BitVec.ofNat_eq_ofNat, BitVec.toNat_ofNat]
  omega

theorem mirrorDown_toNat {a : Addr} (h : 0x2000 ≤ a.toNat) : (mirrorDown a).toNat = a.toNat - 0x2000 := by
  have := a.isLt
  simp only [mirrorDown, BitVec.toNat_sub, BitVec.ofNat_eq_ofNat, BitVec.toNat_ofNat]
  omega

theorem romBankOf_toNat (v : Byte) : (romBankOf v).toNat = max 1 (v.toNat % 128) := by
  revert v; decide

theorem ramBankOf_toNat (v : Byte) : (ramBankOf v).toNat = v.toNat % 4 := by
  revert v; decide

theorem ramEnableCode_iff (v : Byte) : ramEnableCode v = true ↔ v.toNat % 16 = 10 := by
  revert v; decide

/-- The row, by division. -/
theorem openBusRow_eq {a : Addr} (h : 0xFEA0 ≤ a.toNat) : openBusRow a = a.toNat / 16 - 0x0FEA := by
  have := a.isLt
  simp only [openBusRow, BitVec.toNat_sub, BitVec.toNat_ushiftRight, Nat.shiftRight_eq_div_pow, BitVec.ofNat_eq_ofNat,
    BitVec.toNat_ofNat]
  omega

/-- The pattern, by division and remainder: bit 2 of `a + row`. -/
theorem openBusByte_eq (a : Addr) :
    openBusByte a = if (a.toNat + openBusRow a) / 4 % 2 = 1 then 0x00 else 0xFF := by
  have h : ∀ n : Nat, (n >>> 2 &&& 1 != 0) = decide (n / 4 % 2 = 1) := by
    intro n
    rw [Nat.shiftRight_eq_div_pow, Nat.and_one_is_mod]
    rcases Nat.mod_two_eq_zero_or_one (n / 4) with h | h <;> simp [h]
  rw [openBusByte, h]
  simp only [decide_eq_true_eq]

end Sys2Proof.Machine
end

