-- ==== Sys2Proof/Laws/State.lean ====
section
/-! SUPPORT. One lemma per field per update, each true by rfl, so that no later proof unfolds a record update. -/

namespace Sys2Proof.Machine

variable (s : State)

@[simp] theorem StepRecord.empty_data : StepRecord.empty.data = none := rfl

@[simp] theorem StepRecord.empty_calls : StepRecord.empty.calls = [] := rfl

@[simp] theorem StepRecord.empty_diag : StepRecord.empty.diag = Diag.none := rfl

/-! ### `State.setRomBank` -/

@[simp] theorem State.setRomBank_ramBanks (n : BitVec 7) : (s.setRomBank n).block.ramBanks = s.block.ramBanks := rfl

@[simp] theorem State.setRomBank_currentRomBank (n : BitVec 7) : (s.setRomBank n).block.currentRomBank = n := rfl

@[simp] theorem State.setRomBank_currentRamBank (n : BitVec 7) : (s.setRomBank n).block.currentRamBank = s.block.currentRamBank := rfl

@[simp] theorem State.setRomBank_ramEnabled (n : BitVec 7) : (s.setRomBank n).block.ramEnabled = s.block.ramEnabled := rfl

@[simp] theorem State.setRomBank_isColorMode (n : BitVec 7) : (s.setRomBank n).block.isColorMode = s.block.isColorMode := rfl

@[simp] theorem State.setRomBank_session (n : BitVec 7) : (s.setRomBank n).session = s.session := rfl

@[simp] theorem State.setRomBank_phase (n : BitVec 7) : (s.setRomBank n).phase = s.phase := rfl

@[simp] theorem State.setRomBank_pending (n : BitVec 7) : (s.setRomBank n).pending = s.pending := rfl

@[simp] theorem State.setRomBank_answers (n : BitVec 7) : (s.setRomBank n).answers = s.answers := rfl

@[simp] theorem State.setRomBank_draws (n : BitVec 7) : (s.setRomBank n).draws = s.draws := rfl

@[simp] theorem State.setRomBank_out (n : BitVec 7) : (s.setRomBank n).out = s.out := rfl

/-! ### `State.setRamBank` -/

@[simp] theorem State.setRamBank_ramBanks (n : BitVec 2) : (s.setRamBank n).block.ramBanks = s.block.ramBanks := rfl

@[simp] theorem State.setRamBank_currentRomBank (n : BitVec 2) : (s.setRamBank n).block.currentRomBank = s.block.currentRomBank := rfl

@[simp] theorem State.setRamBank_currentRamBank (n : BitVec 2) : (s.setRamBank n).block.currentRamBank = n := rfl

@[simp] theorem State.setRamBank_ramEnabled (n : BitVec 2) : (s.setRamBank n).block.ramEnabled = s.block.ramEnabled := rfl

@[simp] theorem State.setRamBank_isColorMode (n : BitVec 2) : (s.setRamBank n).block.isColorMode = s.block.isColorMode := rfl

@[simp] theorem State.setRamBank_session (n : BitVec 2) : (s.setRamBank n).session = s.session := rfl

@[simp] theorem State.setRamBank_phase (n : BitVec 2) : (s.setRamBank n).phase = s.phase := rfl

@[simp] theorem State.setRamBank_pending (n : BitVec 2) : (s.setRamBank n).pending = s.pending := rfl

@[simp] theorem State.setRamBank_answers (n : BitVec 2) : (s.setRamBank n).answers = s.answers := rfl

@[simp] theorem State.setRamBank_draws (n : BitVec 2) : (s.setRamBank n).draws = s.draws := rfl

@[simp] theorem State.setRamBank_out (n : BitVec 2) : (s.setRamBank n).out = s.out := rfl

/-! ### `State.setRamEnabled` -/

@[simp] theorem State.setRamEnabled_ramBanks (b : Bool) : (s.setRamEnabled b).block.ramBanks = s.block.ramBanks := rfl

@[simp] theorem State.setRamEnabled_currentRomBank (b : Bool) : (s.setRamEnabled b).block.currentRomBank = s.block.currentRomBank := rfl

@[simp] theorem State.setRamEnabled_currentRamBank (b : Bool) : (s.setRamEnabled b).block.currentRamBank = s.block.currentRamBank := rfl

@[simp] theorem State.setRamEnabled_ramEnabled (b : Bool) : (s.setRamEnabled b).block.ramEnabled = b := rfl

@[simp] theorem State.setRamEnabled_isColorMode (b : Bool) : (s.setRamEnabled b).block.isColorMode = s.block.isColorMode := rfl

@[simp] theorem State.setRamEnabled_session (b : Bool) : (s.setRamEnabled b).session = s.session := rfl

@[simp] theorem State.setRamEnabled_phase (b : Bool) : (s.setRamEnabled b).phase = s.phase := rfl

@[simp] theorem State.setRamEnabled_pending (b : Bool) : (s.setRamEnabled b).pending = s.pending := rfl

@[simp] theorem State.setRamEnabled_answers (b : Bool) : (s.setRamEnabled b).answers = s.answers := rfl

@[simp] theorem State.setRamEnabled_draws (b : Bool) : (s.setRamEnabled b).draws = s.draws := rfl

@[simp] theorem State.setRamEnabled_out (b : Bool) : (s.setRamEnabled b).out = s.out := rfl

/-! ### `State.setBlock` -/

@[simp] theorem State.setBlock_block (b : Block) : (s.setBlock b).block = b := rfl

@[simp] theorem State.setBlock_session (b : Block) : (s.setBlock b).session = s.session := rfl

@[simp] theorem State.setBlock_phase (b : Block) : (s.setBlock b).phase = Phase.running := rfl

@[simp] theorem State.setBlock_pending (b : Block) : (s.setBlock b).pending = s.pending := rfl

@[simp] theorem State.setBlock_answers (b : Block) : (s.setBlock b).answers = s.answers := rfl

@[simp] theorem State.setBlock_draws (b : Block) : (s.setBlock b).draws = s.draws := rfl

@[simp] theorem State.setBlock_out (b : Block) : (s.setBlock b).out = s.out := rfl

/-! ### `State.storeXram` -/

@[simp] theorem State.storeXram_ramBanks (i : XramIndex) (v : Byte) : (s.storeXram i v).block.ramBanks = Memory.write s.block.ramBanks i.toNat v := rfl

@[simp] theorem State.storeXram_currentRomBank (i : XramIndex) (v : Byte) : (s.storeXram i v).block.currentRomBank = s.block.currentRomBank := rfl

@[simp] theorem State.storeXram_currentRamBank (i : XramIndex) (v : Byte) : (s.storeXram i v).block.currentRamBank = s.block.currentRamBank := rfl

@[simp] theorem State.storeXram_ramEnabled (i : XramIndex) (v : Byte) : (s.storeXram i v).block.ramEnabled = s.block.ramEnabled := rfl

@[simp] theorem State.storeXram_isColorMode (i : XramIndex) (v : Byte) : (s.storeXram i v).block.isColorMode = s.block.isColorMode := rfl

@[simp] theorem State.storeXram_session (i : XramIndex) (v : Byte) : (s.storeXram i v).session = s.session := rfl

@[simp] theorem State.storeXram_phase (i : XramIndex) (v : Byte) : (s.storeXram i v).phase = s.phase := rfl

@[simp] theorem State.storeXram_pending (i : XramIndex) (v : Byte) : (s.storeXram i v).pending = s.pending := rfl

@[simp] theorem State.storeXram_answers (i : XramIndex) (v : Byte) : (s.storeXram i v).answers = s.answers := rfl

@[simp] theorem State.storeXram_draws (i : XramIndex) (v : Byte) : (s.storeXram i v).draws = s.draws := rfl

@[simp] theorem State.storeXram_out (i : XramIndex) (v : Byte) : (s.storeXram i v).out = s.out := rfl

/-! ### `State.startRecord` -/

@[simp] theorem State.startRecord_block : (s.startRecord).block = s.block := rfl

@[simp] theorem State.startRecord_session : (s.startRecord).session = s.session := rfl

@[simp] theorem State.startRecord_phase : (s.startRecord).phase = s.phase := rfl

@[simp] theorem State.startRecord_pending : (s.startRecord).pending = s.pending := rfl

@[simp] theorem State.startRecord_answers : (s.startRecord).answers = s.answers := rfl

@[simp] theorem State.startRecord_draws : (s.startRecord).draws = s.draws := rfl

@[simp] theorem State.startRecord_out : (s.startRecord).out = StepRecord.empty := rfl

/-! ### `State.returnByte` -/

@[simp] theorem State.returnByte_block (v : Byte) : (s.returnByte v).block = s.block := rfl

@[simp] theorem State.returnByte_session (v : Byte) : (s.returnByte v).session = s.session := rfl

@[simp] theorem State.returnByte_phase (v : Byte) : (s.returnByte v).phase = s.phase := rfl

@[simp] theorem State.returnByte_pending (v : Byte) : (s.returnByte v).pending = s.pending := rfl

@[simp] theorem State.returnByte_answers (v : Byte) : (s.returnByte v).answers = s.answers := rfl

@[simp] theorem State.returnByte_draws (v : Byte) : (s.returnByte v).draws = s.draws := rfl

@[simp] theorem State.returnByte_data (v : Byte) : (s.returnByte v).out.data = some v := rfl

@[simp] theorem State.returnByte_calls (v : Byte) : (s.returnByte v).out.calls = s.out.calls := rfl

@[simp] theorem State.returnByte_diag (v : Byte) : (s.returnByte v).out.diag = s.out.diag := rfl

/-! ### `State.logCall` -/

@[simp] theorem State.logCall_block (c : Call) : (s.logCall c).block = s.block := rfl

@[simp] theorem State.logCall_session (c : Call) : (s.logCall c).session = s.session := rfl

@[simp] theorem State.logCall_phase (c : Call) : (s.logCall c).phase = s.phase := rfl

@[simp] theorem State.logCall_pending (c : Call) : (s.logCall c).pending = s.pending := rfl

@[simp] theorem State.logCall_answers (c : Call) : (s.logCall c).answers = s.answers := rfl

@[simp] theorem State.logCall_draws (c : Call) : (s.logCall c).draws = s.draws := rfl

@[simp] theorem State.logCall_data (c : Call) : (s.logCall c).out.data = s.out.data := rfl

@[simp] theorem State.logCall_calls (c : Call) : (s.logCall c).out.calls = s.out.calls ++ [c] := rfl

@[simp] theorem State.logCall_diag (c : Call) : (s.logCall c).out.diag = s.out.diag := rfl

/-! ### `State.raiseDiag` -/

@[simp] theorem State.raiseDiag_block (d : Diag) : (s.raiseDiag d).block = s.block := rfl

@[simp] theorem State.raiseDiag_session (d : Diag) : (s.raiseDiag d).session = s.session := rfl

@[simp] theorem State.raiseDiag_phase (d : Diag) : (s.raiseDiag d).phase = s.phase := rfl

@[simp] theorem State.raiseDiag_pending (d : Diag) : (s.raiseDiag d).pending = s.pending := rfl

@[simp] theorem State.raiseDiag_answers (d : Diag) : (s.raiseDiag d).answers = s.answers := rfl

@[simp] theorem State.raiseDiag_draws (d : Diag) : (s.raiseDiag d).draws = s.draws := rfl

@[simp] theorem State.raiseDiag_data (d : Diag) : (s.raiseDiag d).out.data = s.out.data := rfl

@[simp] theorem State.raiseDiag_calls (d : Diag) : (s.raiseDiag d).out.calls = s.out.calls := rfl

@[simp] theorem State.raiseDiag_diag (d : Diag) : (s.raiseDiag d).out.diag = d := rfl

/-! ### `State.takeAnswer` -/

@[simp] theorem State.takeAnswer_block : (s.takeAnswer).block = s.block := rfl

@[simp] theorem State.takeAnswer_session : (s.takeAnswer).session = s.session := rfl

@[simp] theorem State.takeAnswer_phase : (s.takeAnswer).phase = s.phase := rfl

@[simp] theorem State.takeAnswer_pending : (s.takeAnswer).pending = s.pending := rfl

@[simp] theorem State.takeAnswer_answers : (s.takeAnswer).answers = s.answers.tail := rfl

@[simp] theorem State.takeAnswer_draws : (s.takeAnswer).draws = s.draws + 1 := rfl

@[simp] theorem State.takeAnswer_out : (s.takeAnswer).out = s.out := rfl

/-! ### `State.afterFetch` -/

@[simp] theorem State.afterFetch_block (rest : List Operation) : (s.afterFetch rest).block = s.block := rfl

@[simp] theorem State.afterFetch_session (rest : List Operation) : (s.afterFetch rest).session = s.session := rfl

@[simp] theorem State.afterFetch_phase (rest : List Operation) : (s.afterFetch rest).phase = s.phase := rfl

@[simp] theorem State.afterFetch_pending (rest : List Operation) : (s.afterFetch rest).pending = rest := rfl

@[simp] theorem State.afterFetch_answers (rest : List Operation) : (s.afterFetch rest).answers = s.answers := rfl

@[simp] theorem State.afterFetch_draws (rest : List Operation) : (s.afterFetch rest).draws = s.draws := rfl

@[simp] theorem State.afterFetch_out (rest : List Operation) : (s.afterFetch rest).out = s.out := rfl

/-! ### `resetBlock`'s fields are in Laws/Ops.lean; what a step starts from -/

@[simp] theorem State.idle_eq_startRecord : s.idle = s.startRecord := rfl

end Sys2Proof.Machine
end

