-- ==== Sys2Proof/Laws/Ops.lean ====
section
/-! SUPPORT. What each shared operation that is built from updates can do, once; the provers cite these. -/

namespace Sys2Proof.Machine

variable (s : State)

/-! ### The environment's answer -/

theorem State.answer_cons {b : Byte} {bs : List Byte} (h : s.answers = b :: bs) : s.answer = b := by
  simp [State.answer, h]

theorem State.answer_nil (h : s.answers = []) : s.answer = Config.freeAnswer s.draws := by
  simp [State.answer, h]

theorem State.answer_congr {t : State} (ha : t.answers = s.answers) (hd : t.draws = s.draws) : t.answer = s.answer := by
  simp [State.answer, ha, hd]

@[simp] theorem State.startRecord_answer : s.startRecord.answer = s.answer := rfl

@[simp] theorem State.logCall_answer (c : Call) : (s.logCall c).answer = s.answer := rfl

@[simp] theorem State.returnByte_answer (v : Byte) : (s.returnByte v).answer = s.answer := rfl

@[simp] theorem State.afterFetch_answer (rest : List Operation) : (s.afterFetch rest).answer = s.answer := rfl

/-! ### `State.readMediator` -/

@[simp] theorem State.readMediator_block (r : MediatorRead) : (s.readMediator r).block = s.block := rfl

@[simp] theorem State.readMediator_session (r : MediatorRead) : (s.readMediator r).session = s.session := rfl

@[simp] theorem State.readMediator_phase (r : MediatorRead) : (s.readMediator r).phase = s.phase := rfl

@[simp] theorem State.readMediator_pending (r : MediatorRead) : (s.readMediator r).pending = s.pending := rfl

@[simp] theorem State.readMediator_answers (r : MediatorRead) : (s.readMediator r).answers = s.answers.tail := rfl

@[simp] theorem State.readMediator_draws (r : MediatorRead) : (s.readMediator r).draws = s.draws + 1 := rfl

@[simp] theorem State.readMediator_out (r : MediatorRead) :
    (s.readMediator r).out = { data := some s.answer, calls := s.out.calls ++ [.medRead r], diag := s.out.diag } := rfl

/-! ### `State.writeMediator` -/

@[simp] theorem State.writeMediator_block (w : MediatorWrite) : (s.writeMediator w).block = s.block := rfl

@[simp] theorem State.writeMediator_session (w : MediatorWrite) : (s.writeMediator w).session = s.session := rfl

@[simp] theorem State.writeMediator_phase (w : MediatorWrite) : (s.writeMediator w).phase = s.phase := rfl

@[simp] theorem State.writeMediator_pending (w : MediatorWrite) : (s.writeMediator w).pending = s.pending := rfl

@[simp] theorem State.writeMediator_answers (w : MediatorWrite) : (s.writeMediator w).answers = s.answers := rfl

@[simp] theorem State.writeMediator_draws (w : MediatorWrite) : (s.writeMediator w).draws = s.draws := rfl

@[simp] theorem State.writeMediator_out (w : MediatorWrite) :
    (s.writeMediator w).out = { data := s.out.data, calls := s.out.calls ++ [.medWrite w], diag := s.out.diag } := rfl

/-! ### `State.romData` and `State.readRom`: both ways they can go -/

theorem State.romData_inside {off : RomOffset} (h : off.toNat < s.session.romSize) : s.romData off = Config.romByte off :=
  if_pos h

theorem State.romData_beyond {off : RomOffset} (h : s.session.romSize ≤ off.toNat) : s.romData off = s.answer :=
  if_neg (Nat.not_lt.mpr h)

@[simp] theorem State.startRecord_romData (off : RomOffset) : s.startRecord.romData off = s.romData off := rfl

@[simp] theorem State.afterFetch_romData (rest : List Operation) (off : RomOffset) :
    (s.afterFetch rest).romData off = s.romData off := rfl

/-- Inside the ROM's size: its constant byte, and no answer of the environment. -/
theorem State.readRom_inside {off : RomOffset} (h : off.toNat < s.session.romSize) :
    s.readRom off = (s.logCall (.romReadByte off)).returnByte (Config.romByte off) := by
  simp [State.readRom, State.romData_inside s h, h]

/-- At or beyond the ROM's size: a fresh answer of the environment. -/
theorem State.readRom_beyond {off : RomOffset} (h : s.session.romSize ≤ off.toNat) :
    s.readRom off = ((s.logCall (.romReadByte off)).returnByte s.answer).takeAnswer := by
  simp [State.readRom, State.romData_beyond s h, Nat.not_lt.mpr h]

@[simp] theorem State.readRom_block (off : RomOffset) : (s.readRom off).block = s.block := by
  simp only [State.readRom]; split <;> rfl

@[simp] theorem State.readRom_session (off : RomOffset) : (s.readRom off).session = s.session := by
  simp only [State.readRom]; split <;> rfl

@[simp] theorem State.readRom_phase (off : RomOffset) : (s.readRom off).phase = s.phase := by
  simp only [State.readRom]; split <;> rfl

@[simp] theorem State.readRom_pending (off : RomOffset) : (s.readRom off).pending = s.pending := by
  simp only [State.readRom]; split <;> rfl

@[simp] theorem State.readRom_calls (off : RomOffset) :
    (s.readRom off).out.calls = s.out.calls ++ [.romReadByte off] := by
  simp only [State.readRom]; split <;> rfl

@[simp] theorem State.readRom_data (off : RomOffset) :
    (s.readRom off).out.data = some (s.romData off) := by
  simp only [State.readRom]; split <;> rfl

@[simp] theorem State.readRom_diag (off : RomOffset) : (s.readRom off).out.diag = s.out.diag := by
  simp only [State.readRom]; split <;> rfl

/-! ### `State.storeXram`: the byte stored, every other byte, and the canonical form -/

/-- The byte stored is read back. -/
theorem State.storeXram_same (h : Memory.wf s.block.ramBanks = true) (i : XramIndex) (v : Byte) :
    (s.storeXram i v).xramByte i = v :=
  Memory.read_write_same h

/-- "The other 32767 bytes are unchanged" (R142). -/
theorem State.storeXram_other {i j : XramIndex} (v : Byte) (h : j ≠ i) :
    (s.storeXram i v).xramByte j = s.xramByte j :=
  Memory.read_write_other fun e => h (BitVec.eq_of_toNat_eq e)

/-- The canonical form is kept: an index is always below the size. -/
theorem State.storeXram_wf (h : Memory.wf s.block.ramBanks = true) (i : XramIndex) (v : Byte) :
    Memory.wf (s.storeXram i v).block.ramBanks = true :=
  Memory.wf_write h i.isLt

/-! ### Reads of the block's state through updates that keep the block -/

@[simp] theorem State.startRecord_xramByte (i : XramIndex) : s.startRecord.xramByte i = s.xramByte i := rfl

@[simp] theorem State.afterFetch_xramByte (rest : List Operation) (i : XramIndex) :
    (s.afterFetch rest).xramByte i = s.xramByte i := rfl

@[simp] theorem State.afterFetch_xramIndexOf (rest : List Operation) (a : Addr) :
    (s.afterFetch rest).xramIndexOf a = s.xramIndexOf a := rfl

@[simp] theorem State.afterFetch_romOffsetOf (rest : List Operation) (a : Addr) :
    (s.afterFetch rest).romOffsetOf a = s.romOffsetOf a := rfl

end Sys2Proof.Machine
end

