-- ==== Sys2Proof/Laws/Step.lean ====
section
/-! SUPPORT. Everything one step can do, said once. -/

namespace Sys2Proof.Machine

variable {s t : State} {op : Operation} {rest : List Operation}

theorem step_idle (h : s.pending = []) : step s = .next s.idle := by
  simp [step, h]

theorem step_operation (h : s.pending = op :: rest) (ha : s.admits op = true) :
    step s = exec (decodeOperation s.block.isColorMode op) (s.afterFetch rest) := by
  simp [step, h, ha]

theorem step_refused (h : s.pending = op :: rest) (ha : s.admits op = false) : step s = .refused .beforeFirstReset := by
  simp [step, h, ha]

@[simp] theorem State.admits_reset (c : Bool) : s.admits (.reset c) = true := rfl

theorem State.admits_running (h : s.phase = .running) (op : Operation) : s.admits op = true := by
  cases op <;> simp [State.admits, h]

/-- The inversion of a step that answers a next state: it was idle, or it performed the operation at the head of the
queue. -/
theorem step_cases (h : step s = .next t) :
    (s.pending = [] ∧ t = s.idle) ∨
    ∃ op rest, s.pending = op :: rest ∧ s.admits op = true ∧
      exec (decodeOperation s.block.isColorMode op) (s.afterFetch rest) = .next t := by
  cases hp : s.pending with
  | nil =>
    rw [step_idle hp] at h
    exact .inl ⟨rfl, by injection h with h; exact h.symm⟩
  | cons op rest =>
    cases ha : s.admits op with
    | false => rw [step_refused hp ha] at h; exact absurd h (by simp)
    | true => exact .inr ⟨op, rest, rfl, ha, by rwa [step_operation hp ha] at h⟩

end Sys2Proof.Machine
end

