-- ==== Sys2Proof/Laws/Exec.lean ====
section
/-! SUPPORT. The meanings with a branch, by branch; what no meaning touches; and a run, one step at a time. -/

namespace Sys2Proof.Machine

variable {s t : State} {i : Instr}

/-! ### The external-RAM window, with RAM enabled and disabled -/

theorem execRdXram_enabled (a : Addr) (h : s.block.ramEnabled = true) :
    execRdXram a s = .next (s.startRecord.returnByte (s.xramByte (s.xramIndexOf a))) := by
  simp [execRdXram, h]

theorem execRdXram_disabled (a : Addr) (h : s.block.ramEnabled = false) :
    execRdXram a s = .next ((s.startRecord.raiseDiag .xramRdDisabled).returnByte disabledRamByte) := by
  simp [execRdXram, h]

theorem execWrXram_enabled (a : Addr) (v : Byte) (h : s.block.ramEnabled = true) :
    execWrXram a v s = .next (s.startRecord.storeXram (s.xramIndexOf a) v) := by
  simp [execWrXram, h]

theorem execWrXram_disabled (a : Addr) (v : Byte) (h : s.block.ramEnabled = false) :
    execWrXram a v s = .next (s.startRecord.raiseDiag .xramWrDisabled) := by
  simp [execWrXram, h]

/-! ### `RESET` leaves the five items of R37 -/

@[simp] theorem resetBlock_ramBanks (n : Fin 2) (c : Bool) : (resetBlock n c).ramBanks = [] := rfl

@[simp] theorem resetBlock_currentRomBank (n : Fin 2) (c : Bool) :
    (resetBlock n c).currentRomBank = BitVec.ofNat 7 n.val := rfl

@[simp] theorem resetBlock_currentRamBank (n : Fin 2) (c : Bool) : (resetBlock n c).currentRamBank = 0 := rfl

@[simp] theorem resetBlock_ramEnabled (n : Fin 2) (c : Bool) : (resetBlock n c).ramEnabled = false := rfl

@[simp] theorem resetBlock_isColorMode (n : Fin 2) (c : Bool) : (resetBlock n c).isColorMode = c := rfl

/-! ### The driver's queue is `step`'s alone -/

/-- No meaning touches the operations still to come. -/
theorem exec_pending (h : exec i s = .next t) : t.pending = s.pending := by
  cases i
  case rdRomx a => cases h; exact State.readRom_pending s.startRecord _
  case rdXram a =>
    cases he : s.block.ramEnabled
    · cases (execRdXram_disabled a he).symm.trans h; rfl
    · cases (execRdXram_enabled a he).symm.trans h; rfl
  case wrXram a v =>
    cases he : s.block.ramEnabled
    · cases (execWrXram_disabled a v he).symm.trans h; rfl
    · cases (execWrXram_enabled a v he).symm.trans h; rfl
  all_goals cases h; rfl

/-! ### Runs -/

theorem runSteps_zero (s : State) : runSteps 0 s = .next s := rfl

/-- A run of one step more is a step and the rest of the run. -/
theorem runSteps_succ (k : Nat) (h : step s = .next t) : runSteps (k + 1) s = runSteps k t := by
  have h' : Sys2Proof.core.step s = .next t := h
  unfold runSteps
  simp only [Host.Core.run, h']
  rfl

end Sys2Proof.Machine
end

