-- ==== Sys2Proof/Laws/PerInstr.lean ====
section
/-! SUPPORT. A family of statements about every instruction as syntax: the key of an instruction (if it has one) carries
the mode bit it was packed with, and decodes to the band that its own direction, address and data byte select. -/

namespace Sys2Proof.Laws

/-- The fields of an instruction's key are its operands' (spec/30_encoding.md R80, R81). -/
def KeyFields.Statement (i : Instr) : Prop :=
  ∀ (cm : Bool) (k : Key), i.operation.key? cm = some k →
    k.cm = cm ∧ decodeKey k = decodeOperation cm i.operation ∧
    i.operation = (if k.wr then .write k.addr k.data else .read k.addr)

theorem keyFields_read (cm : Bool) (a : Addr) (k : Key) (h : (Operation.read a).key? cm = some k) :
    k.cm = cm ∧ decodeKey k = decodeOperation cm (.read a) ∧
    Operation.read a = (if k.wr then .write k.addr k.data else .read k.addr) := by
  obtain rfl : mkKey cm false a 0 = k := by simpa [Operation.key?] using h
  simp

theorem keyFields_write (cm : Bool) (a : Addr) (v : Byte) (k : Key) (h : (Operation.write a v).key? cm = some k) :
    k.cm = cm ∧ decodeKey k = decodeOperation cm (.write a v) ∧
    Operation.write a v = (if k.wr then .write k.addr k.data else .read k.addr) := by
  obtain rfl : mkKey cm true a v = k := by simpa [Operation.key?] using h
  simp

theorem KeyFields.rdRomx (a : Addr) : KeyFields.Statement (.rdRomx a) :=
  fun cm k h => keyFields_read cm a k h

theorem KeyFields.rdCvram (a : Addr) : KeyFields.Statement (.rdCvram a) :=
  fun cm k h => keyFields_read cm a k h

theorem KeyFields.rdXram (a : Addr) : KeyFields.Statement (.rdXram a) :=
  fun cm k h => keyFields_read cm a k h

theorem KeyFields.rdCwram (a : Addr) : KeyFields.Statement (.rdCwram a) :=
  fun cm k h => keyFields_read cm a k h

theorem KeyFields.rdOpenbus (a : Addr) : KeyFields.Statement (.rdOpenbus a) :=
  fun cm k h => keyFields_read cm a k h

theorem KeyFields.rdUnusedFwd (a : Addr) : KeyFields.Statement (.rdUnusedFwd a) :=
  fun cm k h => keyFields_read cm a k h

theorem KeyFields.rdGen (a : Addr) : KeyFields.Statement (.rdGen a) :=
  fun cm k h => keyFields_read cm a k h

theorem KeyFields.wrRamg (a : Addr) (v : Byte) : KeyFields.Statement (.wrRamg a v) :=
  fun cm k h => keyFields_write cm a v k h

theorem KeyFields.wrRomb (a : Addr) (v : Byte) : KeyFields.Statement (.wrRomb a v) :=
  fun cm k h => keyFields_write cm a v k h

theorem KeyFields.wrRtcsel (a : Addr) (v : Byte) : KeyFields.Statement (.wrRtcsel a v) :=
  fun cm k h => keyFields_write cm a v k h

theorem KeyFields.wrRamb (a : Addr) (v : Byte) : KeyFields.Statement (.wrRamb a v) :=
  fun cm k h => keyFields_write cm a v k h

theorem KeyFields.wrLatch (a : Addr) (v : Byte) : KeyFields.Statement (.wrLatch a v) :=
  fun cm k h => keyFields_write cm a v k h

theorem KeyFields.wrCvram (a : Addr) (v : Byte) : KeyFields.Statement (.wrCvram a v) :=
  fun cm k h => keyFields_write cm a v k h

theorem KeyFields.wrXram (a : Addr) (v : Byte) : KeyFields.Statement (.wrXram a v) :=
  fun cm k h => keyFields_write cm a v k h

theorem KeyFields.wrWramEchoUp (a : Addr) (v : Byte) : KeyFields.Statement (.wrWramEchoUp a v) :=
  fun cm k h => keyFields_write cm a v k h

theorem KeyFields.wrCwramEchoUp (a : Addr) (v : Byte) : KeyFields.Statement (.wrCwramEchoUp a v) :=
  fun cm k h => keyFields_write cm a v k h

theorem KeyFields.wrCwramTop (a : Addr) (v : Byte) : KeyFields.Statement (.wrCwramTop a v) :=
  fun cm k h => keyFields_write cm a v k h

theorem KeyFields.wrEchoDown (a : Addr) (v : Byte) : KeyFields.Statement (.wrEchoDown a v) :=
  fun cm k h => keyFields_write cm a v k h

theorem KeyFields.wrEchoCwramDown (a : Addr) (v : Byte) : KeyFields.Statement (.wrEchoCwramDown a v) :=
  fun cm k h => keyFields_write cm a v k h

theorem KeyFields.wrUnused (a : Addr) (v : Byte) : KeyFields.Statement (.wrUnused a v) :=
  fun cm k h => keyFields_write cm a v k h

theorem KeyFields.wrGen (a : Addr) (v : Byte) : KeyFields.Statement (.wrGen a v) :=
  fun cm k h => keyFields_write cm a v k h

/-- `Reset` has no key (R81). -/
theorem KeyFields.reset (c : Bool) : KeyFields.Statement (.reset c) :=
  fun _ _ h => absurd h (by simp [Instr.operation, Operation.key?])

end Sys2Proof.Laws
end

