-- ==== Sys2Proof/Laws/Ports.lean ====
section
/-! SUPPORT. The ports: the input ports by the operation at the head of the queue, the surroundings' ports under a select,
and the fields of a strobe. -/

namespace Sys2Proof.Machine

/-! ### Input ports -/

@[simp] theorem InPorts.select_HAS_RAM (p : InPorts) (op : Operation) : (p.select op).HAS_RAM = p.HAS_RAM := by
  cases op <;> rfl

@[simp] theorem InPorts.select_ROM_D (p : InPorts) (op : Operation) : (p.select op).ROM_D = p.ROM_D := by
  cases op <;> rfl

@[simp] theorem InPorts.select_M_RD (p : InPorts) (op : Operation) : (p.select op).M_RD = p.M_RD := by
  cases op <;> rfl

variable {s : State} {rest : List Operation}

/-- The ports of a step that issues an operation. -/
theorem State.inPorts_cons {op : Operation} (h : s.pending = op :: rest) :
    s.inPorts =
      (InPorts.unselected s.session.hasRam (s.romData (s.romOffsetOf s.portA)) s.answer).select op := by
  simp only [State.inPorts, h]

/-- The ports of a step that issues none. -/
theorem State.inPorts_nil (h : s.pending = []) :
    s.inPorts = InPorts.unselected s.session.hasRam (s.romData (s.romOffsetOf s.portA)) s.answer := by
  simp only [State.inPorts, h]

theorem State.portA_read {a : Addr} (h : s.pending = .read a :: rest) : s.portA = a := by
  simp only [State.portA, h]

theorem State.portA_write {a : Addr} {v : Byte} (h : s.pending = .write a v :: rest) : s.portA = a := by
  simp only [State.portA, h]

theorem State.portA_reset {c : Bool} (h : s.pending = .reset c :: rest) : s.portA = 0 := by
  simp only [State.portA, h]

/-! ### Strobes -/

variable (m : MediatorSelect) (a : Addr) (v : Byte)

@[simp] theorem MediatorStrobe.ofRead_M_A : (MediatorStrobe.ofRead m a).M_A = a := rfl
@[simp] theorem MediatorStrobe.ofRead_M_WD : (MediatorStrobe.ofRead m a).M_WD = none := rfl
@[simp] theorem MediatorStrobe.ofRead_M_RE : (MediatorStrobe.ofRead m a).M_RE = true := rfl
@[simp] theorem MediatorStrobe.ofRead_M_WE : (MediatorStrobe.ofRead m a).M_WE = false := rfl
@[simp] theorem MediatorStrobe.ofWrite_M_A : (MediatorStrobe.ofWrite m a v).M_A = a := rfl
@[simp] theorem MediatorStrobe.ofWrite_M_WD : (MediatorStrobe.ofWrite m a v).M_WD = some v := rfl
@[simp] theorem MediatorStrobe.ofWrite_M_RE : (MediatorStrobe.ofWrite m a v).M_RE = false := rfl
@[simp] theorem MediatorStrobe.ofWrite_M_WE : (MediatorStrobe.ofWrite m a v).M_WE = true := rfl

end Sys2Proof.Machine
end

