-- ==== Sys2Proof/Tests/Slice0.lean ====
section
/-! SUPPORT. The model's own tests. Expected values come from the spec: words written out from 30_encoding.md R80 to R84,
decodes and results from 95_test_vectors.md (cited by its ids), and hand calculation. Then one witness for the hypotheses
of each statement that has some. -/

namespace Sys2Proof.Tests

open Sys2Proof Sys2Proof.Machine

/-! ### WellFormed: an ill-formed term for each check -/

/-- One address below and one above every range that stands in both modes. -/
theorem test_wellFormed_refuses_addresses :
    [Instr.rdRomx 0x3FFF, .rdRomx 0x8000, .rdXram 0x9FFF, .rdXram 0xC000, .wrRamg 0x2000 0, .wrRomb 0x1FFF 0,
      .wrRomb 0x4000 0, .wrRtcsel 0x3FFF 8, .wrRtcsel 0x6000 8, .wrRamb 0x3FFF 0, .wrRamb 0x6000 0, .wrLatch 0x5FFF 0,
      .wrLatch 0x8000 0, .wrXram 0x9FFF 0, .wrXram 0xC000 0, .wrUnused 0xFE9F 0, .wrUnused 0xFF00 0].all
      (fun i => !i.wellFormed false && !i.wellFormed true) = true := by decide

/-- One address below and one above every range that stands in color mode only, and of `RD.OPENBUS`'s. -/
theorem test_wellFormed_refuses_mode_addresses :
    [Instr.rdCvram 0x7FFF, .rdCvram 0xA000, .rdCwram 0xCFFF, .rdCwram 0xE000, .rdUnusedFwd 0xFE9F, .rdUnusedFwd 0xFF00,
      .wrCvram 0x7FFF 0, .wrCvram 0xA000 0, .wrCwramEchoUp 0xCFFF 0, .wrCwramEchoUp 0xDE00 0, .wrCwramTop 0xDDFF 0,
      .wrCwramTop 0xE000 0, .wrEchoCwramDown 0xEFFF 0, .wrEchoCwramDown 0xFE00 0, .wrWramEchoUp 0xD000 0,
      .wrEchoDown 0xF000 0, .rdGen 0xD000, .wrGen 0xDE00 0].all (fun i => !i.wellFormed true) = true ∧
    [Instr.rdOpenbus 0xFE9F, .rdOpenbus 0xFF00].all (fun i => !i.wellFormed false) = true := by decide

/-- The mode check. -/
theorem test_wellFormed_refuses_the_wrong_mode :
    [Instr.rdCvram 0x8000, .rdCwram 0xD000, .rdUnusedFwd 0xFEA0, .wrCvram 0x8000 0, .wrCwramEchoUp 0xD000 0,
      .wrCwramTop 0xDE00 0, .wrEchoCwramDown 0xF000 0].all (fun i => !i.wellFormed false) = true ∧
    (Instr.rdOpenbus 0xFEA0).wellFormed true = false := by decide

/-- The data check of `WR.RTCSEL` and `WR.RAMB`. -/
theorem test_wellFormed_refuses_data :
    [Instr.wrRtcsel 0x4000 0x07, .wrRtcsel 0x4000 0x0D, .wrRamb 0x4000 0x08, .wrRamb 0x4000 0x0C].all
      (fun i => !i.wellFormed false && !i.wellFormed true) = true := by decide

/-- The default bands take no address of another band. -/
theorem test_wellFormed_refuses_default_bands :
    [Instr.rdGen 0x4000, .rdGen 0xA000, .rdGen 0xFEA0, .wrGen 0x0000 0, .wrGen 0xA000 0, .wrGen 0xC000 0, .wrGen 0xE000 0,
      .wrGen 0xFEA0 0, .wrWramEchoUp 0xBFFF 0, .wrWramEchoUp 0xDE00 0, .wrEchoDown 0xDFFF 0, .wrEchoDown 0xFE00 0].all
      (fun i => !i.wellFormed false) = true := by decide

/-! ### Decode: a word for every constructor, written out as `CM WR A D` (R80) -/

theorem test_word_rdRomx : decodeTableWord 32 0b0_0_0100000000000000_00000000 = some (.rdRomx 0x4000) := by rfl
theorem test_word_rdCvram : decodeTableWord 32 0b1_0_1000000000000000_00000000 = some (.rdCvram 0x8000) := by rfl
theorem test_word_rdXram : decodeTableWord 32 0b0_0_1010000000010000_00000000 = some (.rdXram 0xA010) := by rfl
theorem test_word_rdCwram : decodeTableWord 32 0b1_0_1101000100100011_00000000 = some (.rdCwram 0xD123) := by rfl
theorem test_word_rdOpenbus : decodeTableWord 32 0b0_0_1111111010100000_00000000 = some (.rdOpenbus 0xFEA0) := by rfl
theorem test_word_rdUnusedFwd : decodeTableWord 32 0b1_0_1111111010100100_00000000 = some (.rdUnusedFwd 0xFEA4) := by rfl
theorem test_word_rdGen : decodeTableWord 32 0b0_0_1110000100100011_00000000 = some (.rdGen 0xE123) := by rfl
theorem test_word_wrRamg : decodeTableWord 32 0b0_1_0000000000000000_00001010 = some (.wrRamg 0x0000 0x0A) := by rfl
theorem test_word_wrRomb : decodeTableWord 32 0b0_1_0010000110101011_01111110 = some (.wrRomb 0x21AB 0x7E) := by rfl
theorem test_word_wrRtcsel : decodeTableWord 32 0b1_1_0100000000000000_00001100 = some (.wrRtcsel 0x4000 0x0C) := by rfl
theorem test_word_wrRamb : decodeTableWord 32 0b0_1_0101111111111111_00001101 = some (.wrRamb 0x5FFF 0x0D) := by rfl
theorem test_word_wrLatch : decodeTableWord 32 0b0_1_0110000000000000_00000001 = some (.wrLatch 0x6000 0x01) := by rfl
theorem test_word_wrCvram : decodeTableWord 32 0b1_1_1001101010111100_00010001 = some (.wrCvram 0x9ABC 0x11) := by rfl
theorem test_word_wrXram : decodeTableWord 32 0b0_1_1011111111111111_10011001 = some (.wrXram 0xBFFF 0x99) := by rfl
theorem test_word_wrWramEchoUp : decodeTableWord 32 0b0_1_1101110111111111_00000010 = some (.wrWramEchoUp 0xDDFF 0x02) := by rfl
theorem test_word_wrCwramEchoUp : decodeTableWord 32 0b1_1_1101000000000101_00111100 = some (.wrCwramEchoUp 0xD005 0x3C) := by rfl
theorem test_word_wrCwramTop : decodeTableWord 32 0b1_1_1101111000000000_01100110 = some (.wrCwramTop 0xDE00 0x66) := by rfl
theorem test_word_wrEchoDown : decodeTableWord 32 0b0_1_1111110111111111_01010101 = some (.wrEchoDown 0xFDFF 0x55) := by rfl
theorem test_word_wrEchoCwramDown : decodeTableWord 32 0b1_1_1111000100000000_10011010 = some (.wrEchoCwramDown 0xF100 0x9A) := by rfl
theorem test_word_wrUnused : decodeTableWord 32 0b0_1_1111111010100100_00010010 = some (.wrUnused 0xFEA4 0x12) := by rfl
theorem test_word_wrGen : decodeTableWord 32 0b0_1_1101111000000000_01100110 = some (.wrGen 0xDE00 0x66) := by rfl
theorem test_word_reset : decodeTableWord 0 0 = some (.reset false) ∧ decodeTableWord 8 1 = some (.reset true) := ⟨rfl, rfl⟩

/-- What is no operation's word is rejected by name. -/
theorem test_words_rejected :
    decode [0, 0, 0, 4] = .error .bitsAboveKey ∧ decode [2] = .error .bitsAboveColorMode ∧ decode [] = .error .badLength ∧
    decodeTableWord 32 (2 ^ 32) = none ∧ decodeTableWord 8 256 = none := ⟨rfl, rfl, rfl, rfl, rfl⟩

/-- A word stored where `step` takes its next operation is run by the very next step. -/
theorem test_withFetchWord_runs :
    step (State.reset.withFetchWord 32 0b1_1_1101111000000000_01100110) = exec (.wrCwramTop 0xDE00 0x66)
      { State.reset with block := { State.reset.block with isColorMode := true } } ∧
    step (State.reset.withFetchWord 8 1) = exec (.reset true) State.reset := ⟨rfl, rfl⟩

/-! ### T-DEC: the bands at every boundary -/

/-- The first and last address of every range. -/
def boundaries : List Addr :=
  [0x0000, 0x1FFF, 0x2000, 0x3FFF, 0x4000, 0x5FFF, 0x6000, 0x7FFF, 0x8000, 0x9FFF, 0xA000, 0xBFFF, 0xC000, 0xCFFF, 0xD000] ++
  [0xDDFF, 0xDE00, 0xDFFF, 0xE000, 0xEFFF, 0xF000, 0xFDFF, 0xFE00, 0xFE9F, 0xFEA0, 0xFEBF, 0xFEC0, 0xFEFF, 0xFF00, 0xFFFF]

theorem test_tdec_reads_plain :
    boundaries.map (fun a => (decodeRead false a).band) =
      List.replicate 4 .rdGen ++ List.replicate 4 .rdRomx ++ List.replicate 2 .rdGen ++ List.replicate 2 .rdXram ++
      List.replicate 12 .rdGen ++ List.replicate 4 .rdOpenbus ++ List.replicate 2 .rdGen := by decide

theorem test_tdec_reads_color :
    boundaries.map (fun a => (decodeRead true a).band) =
      List.replicate 4 .rdGen ++ List.replicate 4 .rdRomx ++ List.replicate 2 .rdCvram ++ List.replicate 2 .rdXram ++
      List.replicate 2 .rdGen ++ List.replicate 4 .rdCwram ++ List.replicate 6 .rdGen ++ List.replicate 4 .rdUnusedFwd ++
      List.replicate 2 .rdGen := by decide

theorem test_tdec_writes_plain :
    boundaries.map (fun a => (decodeWrite false a 0).band) =
      List.replicate 2 .wrRamg ++ List.replicate 2 .wrRomb ++ List.replicate 2 .wrRamb ++ List.replicate 2 .wrLatch ++
      List.replicate 2 .wrGen ++ List.replicate 2 .wrXram ++ List.replicate 4 .wrWramEchoUp ++ List.replicate 2 .wrGen ++
      List.replicate 4 .wrEchoDown ++ List.replicate 2 .wrGen ++ List.replicate 4 .wrUnused ++
      List.replicate 2 .wrGen := by decide

theorem test_tdec_writes_color :
    boundaries.map (fun a => (decodeWrite true a 0).band) =
      List.replicate 2 .wrRamg ++ List.replicate 2 .wrRomb ++ List.replicate 2 .wrRamb ++ List.replicate 2 .wrLatch ++
      List.replicate 2 .wrCvram ++ List.replicate 2 .wrXram ++ List.replicate 2 .wrWramEchoUp ++
      List.replicate 2 .wrCwramEchoUp ++ List.replicate 2 .wrCwramTop ++ List.replicate 2 .wrEchoDown ++
      List.replicate 2 .wrEchoCwramDown ++ List.replicate 2 .wrGen ++ List.replicate 4 .wrUnused ++
      List.replicate 2 .wrGen := by decide

/-! ### One step of each band -/

/-- A state after `Reset` with operations to issue, answers ready and a ROM of full size. -/
def ready (cm : Bool) (ops : List Operation) (ans : List Byte) : State :=
  { State.reset with
    block := { State.reset.block with isColorMode := cm }
    session := { State.reset.session with romSize := 0x200000 }
    pending := ops
    answers := ans }

/-- The same with the bank registers and the latch set, and two bytes in external RAM. -/
def banked (romb : BitVec 7) (ramb : BitVec 2) (en : Bool) (ops : List Operation) : State :=
  { ready false ops [0xA5] with
    block := { ramBanks := [(0x4010, 0x99)], currentRomBank := romb, currentRamBank := ramb, ramEnabled := en,
               isColorMode := false } }

/-- Without RAM in the cartridge. -/
def withoutRam (s : State) : State := { s with session := { s.session with hasRam := false } }

/-- The block a step leaves. -/
def blockAfter (s : State) : Option Block :=
  match step s with
  | .next t => some t.block
  | .fault _ => none
  | .refused _ => none

/-- The record a step leaves. -/
def recordAfter (s : State) : Option StepRecord :=
  match step s with
  | .next t => some t.out
  | .fault _ => none
  | .refused _ => none

/-- T-RD-3. -/
theorem test_rdRomx_bank5 :
    recordAfter (banked 5 0 false [.read 0x7FFF]) =
      some { data := some (Config.romByte 0x017FFF), calls := [.romReadByte 0x017FFF], diag := .none } := by rfl

/-- T-RD-5, at a ROM smaller than the offset: the environment's byte. -/
theorem test_rdRomx_beyond_size :
    recordAfter { banked 127 0 false [.read 0x7FFF] with session := { hasRam := true, rombReset := 0, romSize := 0x100000 } } =
      some { data := some 0xA5, calls := [.romReadByte 0x1FFFFF], diag := .none } := by rfl

/-- T-RD-7. -/
theorem test_rdCvram : recordAfter (ready true [.read 0x9FFF] [0xB6]) =
    some { data := some 0xB6, calls := [.medRead (.colorVideoRAM 0x9FFF false)], diag := .none } := by decide

/-- T-RD-12. -/
theorem test_rdXram_bank2 : recordAfter (banked 0 2 true [.read 0xA010]) =
    some { data := some 0x99, calls := [], diag := .none } := by decide

/-- T-RD-9: the sentinel is `0x00`, not `0xFF`, whatever the bank holds. -/
theorem test_rdXram_disabled : recordAfter (banked 0 2 false [.read 0xA010]) =
    some { data := some 0x00, calls := [], diag := .xramRdDisabled } := by decide

/-- T-RD-15. -/
theorem test_rdCwram : recordAfter (ready true [.read 0xDFFF] [0xC7]) =
    some { data := some 0xC7, calls := [.medRead (.colorWorkRAM 0xDFFF)], diag := .none } := by decide

/-- T-OB, the row at `0xFEB0`, where the formula and the loose prose differ (90 C3). -/
theorem test_rdOpenbus_row1 :
    (List.range 16).map (fun c => openBusByte (BitVec.ofNat 16 (0xFEB0 + c))) =
      [0xFF, 0xFF, 0xFF, 0x00, 0x00, 0x00, 0x00, 0xFF, 0xFF, 0xFF, 0xFF, 0x00, 0x00, 0x00, 0x00, 0xFF] := by decide

/-- T-OB: `0xFEFF` reads `0x00`, and nothing is called. -/
theorem test_rdOpenbus_last : recordAfter (ready false [.read 0xFEFF] []) =
    some { data := some 0x00, calls := [], diag := .none } := by decide

/-- T-RD-18. -/
theorem test_rdUnusedFwd : recordAfter (ready true [.read 0xFEA4] [0xA5]) =
    some { data := some 0xA5, calls := [.medRead (.generic 0xFEA4)], diag := .none } := by decide

/-- T-RD-21: not redirected to `0xC123`. -/
theorem test_rdGen_echo : recordAfter (ready false [.read 0xE123] [0x77]) =
    some { data := some 0x77, calls := [.medRead (.generic 0xE123)], diag := .none } := by decide

/-- T-RD-20: a control port is not read back. -/
theorem test_rdGen_port : recordAfter (ready true [.read 0x0150] [0x13]) =
    some { data := some 0x13, calls := [.medRead (.generic 0x0150)], diag := .none } := by decide

/-- T-RAMG-3: only the low nibble matters. -/
theorem test_wrRamg_enables : blockAfter (banked 5 2 false [.write 0x1FFF 0xFA]) =
    some (banked 5 2 true []).block := by decide

/-- T-RAMG-10: no effect without RAM. -/
theorem test_wrRamg_without_ram : blockAfter (withoutRam (ready false [.write 0x0000 0x0A] [])) =
    some State.reset.block := by decide

/-- T-ROMB-9: `0x80` selects bank 1. -/
theorem test_wrRomb_zero : blockAfter (banked 5 2 false [.write 0x2000 0x80]) = some (banked 1 2 false []).block := by decide

/-- T-ROMB-14. -/
theorem test_wrRomb_126 : blockAfter (banked 5 2 false [.write 0x21AB 0x7E]) = some (banked 126 2 false []).block := by decide

/-- T-RAMB-8: not bank 2 by masking, unchanged. -/
theorem test_wrRtcsel_inert : blockAfter (banked 5 1 true [.write 0x4000 0x0A]) = some (banked 5 1 true []).block := by decide

/-- T-RAMB-11: just past the clock's values. -/
theorem test_wrRamb_0D : blockAfter (banked 5 2 false [.write 0x4000 0x0D]) = some (banked 5 1 false []).block := by decide

/-- T-RAMB-16: the whole byte is compared, not its low nibble. -/
theorem test_wrRamb_88 : blockAfter (banked 5 2 false [.write 0x4000 0x88]) = some (banked 5 0 false []).block := by decide

/-- T-LATCH. -/
theorem test_wrLatch_inert : blockAfter (banked 5 2 true [.write 0x6000 0x01]) = some (banked 5 2 true []).block ∧
    recordAfter (banked 5 2 true [.write 0x6000 0x01]) = some { data := none, calls := [], diag := .none } := by decide

/-- T-WR-1. -/
theorem test_wrCvram : recordAfter (ready true [.write 0x9ABC 0x11] []) =
    some { data := none, calls := [.medWrite (.colorVideoRAM 0x9ABC 0x11)], diag := .none } := by decide

/-- T-WR-6: bank 3, the last byte. -/
theorem test_wrXram_last : (blockAfter (banked 0 3 true [.write 0xBFFF 0x99])).map (·.ramBanks) =
    some [(0x4010, 0x99), (0x7FFF, 0x99)] := by decide

/-- T-WR-3: dropped. -/
theorem test_wrXram_disabled : blockAfter (banked 0 2 false [.write 0xA010 0x42]) = some (banked 0 2 false []).block ∧
    recordAfter (banked 0 2 false [.write 0xA010 0x42]) =
      some { data := none, calls := [], diag := .xramWrDisabled } := by decide

/-- T-WR-8. -/
theorem test_wrWramEchoUp : recordAfter (ready false [.write 0xDDFF 0x02] []) =
    some { data := none, calls := [.medWrite (.generic 0xFDFF 0x02), .medWrite (.generic 0xDDFF 0x02)],
           diag := .none } := by decide

/-- T-WR-10. -/
theorem test_wrCwramEchoUp : recordAfter (ready true [.write 0xD000 0x03] []) =
    some { data := none, calls := [.medWrite (.colorWorkRAM 0xD000 0x03), .medWrite (.generic 0xF000 0x03)],
           diag := .none } := by decide

/-- T-WR-12: one call. -/
theorem test_wrCwramTop : recordAfter (ready true [.write 0xDE00 0x05] []) =
    some { data := none, calls := [.medWrite (.colorWorkRAM 0xDE00 0x05)], diag := .none } := by decide

/-- T-WR-18: color mode, just below the banked echo. -/
theorem test_wrEchoDown : recordAfter (ready true [.write 0xEFFF 0x09] []) =
    some { data := none, calls := [.medWrite (.generic 0xCFFF 0x09), .medWrite (.generic 0xEFFF 0x09)],
           diag := .none } := by decide

/-- T-WR-16. -/
theorem test_wrEchoCwramDown : recordAfter (ready true [.write 0xFDFF 0x07] []) =
    some { data := none, calls := [.medWrite (.colorWorkRAM 0xDDFF 0x07), .medWrite (.generic 0xFDFF 0x07)],
           diag := .none } := by decide

/-- T-WR-20. -/
theorem test_wrUnused : recordAfter (ready false [.write 0xFEA0 0x0B] []) =
    some { data := none, calls := [.medWrite (.generic 0xFEA0 0x0B)], diag := .none } := by decide

/-- T-WR-13: no mirror of `0xDE00`. -/
theorem test_wrGen : recordAfter (ready false [.write 0xDE00 0x05] []) =
    some { data := none, calls := [.medWrite (.generic 0xDE00 0x05)], diag := .none } := by decide

/-- T-RST-1. -/
theorem test_reset_clears_all : blockAfter (banked 5 3 true [.reset false]) = some State.reset.block := by decide

/-- T-RST-3 and T-RST-5, with `ROMB_RESET = 1` (R186). -/
theorem test_reset_color :
    blockAfter { banked 5 3 true [.reset true] with session := { hasRam := false, rombReset := 1, romSize := 0 } } =
      some { ramBanks := [], currentRomBank := 1, currentRamBank := 0, ramEnabled := false, isColorMode := true } := by decide

/-- P4 line 4 on the ports of R12: two strobes of the mediator, no byte returned, no diagnostic. -/
theorem test_outPorts : (recordAfter (ready true [.write 0xD005 0x3C] [])).map StepRecord.outPorts =
    some { DO := none, ROM_A := none,
           M := [{ M_SEL := 2, M_A := 0xD005, M_WD := some 0x3C, M_RE := false, M_WE := true },
                 { M_SEL := 0, M_A := 0xF005, M_WD := some 0x3C, M_RE := false, M_WE := true }],
           DIAG := 0 } := by decide

/-- T-RD-5 and T-RD-7 on the input ports of R12: the store's byte on `ROM_D`, the mediator's on `M_RD`, and `HAS_RAM`. -/
theorem test_inPorts :
    (banked 127 0 false [.read 0x7FFF]).inPorts.ROM_D = Config.romByte 0x1FFFFF ∧
    (ready true [.read 0x9FFF] [0xB6]).inPorts.M_RD = 0xB6 ∧
    (withoutRam (ready false [.write 0x0000 0x0A] [])).inPorts.HAS_RAM = false := ⟨rfl, rfl, rfl⟩

/-! ### Witnesses: for each statement with hypotheses, a state and operands that meet them together, clause by clause, at the
ends of the ranges -/

/-- The low and the high end of `[lo, hi)` lie in it. -/
def endsMeet (lo hi : Nat) (a b : Addr) : Bool :=
  decide (a.toNat = lo) && decide (b.toNat + 1 = hi) && decide (lo < hi)

theorem witness_DecodeInvertsEncode :
    (Instr.rdCvram 0x8000).wellFormed true = true ∧ (Instr.rdOpenbus 0xFEFF).wellFormed false = true ∧
    (Instr.wrRtcsel 0x5FFF 0x0C).wellFormed true = true ∧ (Instr.wrGen 0xDE00 0xFF).wellFormed false = true ∧
    (Instr.reset true).wellFormed false = true := by decide

theorem witness_AddressFormulasAreBitFields :
    (endsMeet 0x4000 0x8000 0x4000 0x7FFF && endsMeet 0xA000 0xC000 0xA000 0xBFFF && endsMeet 0xC000 0xDE00 0xC000 0xDDFF &&
    endsMeet 0xE000 0xFE00 0xE000 0xFDFF) = true := by decide

/-- T-RD-5's offset and T-WR-6's index, from the bit-field forms. -/
theorem witness_AddressFormulasAreBitFields_values :
    romOffset 0x7FFF 127 = 0x1FFFFF ∧ romOffset 0x5555 64 = 0x101555 ∧ xramIndex 0xBFFF 3 = 0x7FFF ∧
    mirrorUp 0xDDFF = 0xFDFF ∧ mirrorDown 0xF000 = 0xD000 := by decide

theorem witness_PseudoOperationsExpandToOneWrite :
    0x08 ≤ (0x08 : Byte).toNat ∧ (0x0C : Byte).toNat ≤ 0x0C := by decide

/-- Both disjuncts: a running block with a transaction, and a constructed one with a `Reset`. -/
theorem witness_StepRunsTheDecodedOperation :
    ((ready true [.read 0x9FFF] []).phase = .running ∧
      decode ((Operation.read 0x9FFF).bytes true) = .ok (.rdCvram 0x9FFF)) ∧
    ((Operation.reset false).isReset = true ∧ decode ((Operation.reset false).bytes true) = .ok (.reset false)) :=
  ⟨⟨rfl, rfl⟩, rfl, rfl⟩

theorem witness_StepWithoutOperationIdles : (ready true [] [0x01]).pending = [] := rfl

theorem witness_BeforeTheFirstResetOnlyResetRuns :
    (Operation.read 0x0000).isReset = false ∧ (Operation.write 0xFFFF 0x01).isReset = false ∧
    (Operation.reset true).isReset = true := by decide

theorem witness_EveryOperationHasANextState :
    (banked 127 3 true [.write 0xBFFF 0x00]).phase = .running ∧
    (State.constructed State.reset.block State.reset.session [.reset true] [] 0).pending = [.reset true] := by decide

theorem witness_AnswersReachOnlyTheReturnedByte : ∃ t, step (ready true [.read 0xD000] [0x11]) = .next t := ⟨_, rfl⟩

theorem witness_NoStepChangesTheSession :
    ∃ t, step (withoutRam (ready false [.write 0x0000 0x0A] [])) = .next t := ⟨_, rfl⟩

/-- Inside the ROM's size at the lowest address, beyond it at the highest. -/
theorem witness_RomWindowReadReturnsTheStoresByte :
    endsMeet 0x4000 0x8000 0x4000 0x7FFF = true ∧
    (romOffset 0x4000 5).toNat < (banked 5 0 false []).session.romSize ∧
    State.reset.session.romSize ≤ (romOffset 0x7FFF 127).toNat := by decide

theorem witness_MediatorReadsForwardTheRawAddress :
    (Instr.rdCvram 0x9FFF).wellFormed true = true ∧ (Instr.rdCwram 0xD000).wellFormed true = true ∧
    (Instr.rdUnusedFwd 0xFEFF).wellFormed true = true ∧ (Instr.rdGen 0xFFFF).wellFormed true = true ∧
    (Instr.rdGen 0x8000).wellFormed false = true := by decide

theorem witness_ExternalRamReadReturnsByteOrSentinel :
    endsMeet 0xA000 0xC000 0xA000 0xBFFF = true ∧ (banked 0 3 true []).block.ramEnabled = true ∧
    (banked 0 3 false []).block.ramEnabled = false := by decide

theorem witness_OpenBusReadIsComputedFromTheAddress : endsMeet 0xFEA0 0xFF00 0xFEA0 0xFEFF = true := by decide

theorem witness_OpenBusRowsShiftByOne :
    (∃ t, step { ready false [] [] with pending := .read (0xFEEE + 16) :: [] } = .next t) ∧
    (∃ u, step { ready false [] [] with pending := .read (0xFEEE + 1) :: [] } = .next u) ∧
    (ready false [] []).block.isColorMode = false ∧ (0xFEEE : Addr).toNat < 0xFEF0 ∧ (0xFEEE : Addr).toNat % 16 < 15 :=
  ⟨⟨_, rfl⟩, ⟨_, rfl⟩, rfl, by decide, by decide⟩

/-- Both ends of the window, which the condition of the diagnostic takes in, and its neighbours. -/
theorem witness_ReadsWriteNoStateOfTheBlock :
    [0xA000, 0xBFFF].map (fun a => (recordAfter (ready false [.read a] [0x01])).map (·.diag)) =
      [some .xramRdDisabled, some .xramRdDisabled] ∧
    [0x9FFF, 0xC000].map (fun a => (recordAfter (ready false [.read a] [0x01])).map (·.diag)) =
      [some .none, some .none] := by decide

theorem witness_OwnReadsAreIdempotent :
    (ready false [.read 0xA000, .read 0xA000] []).pending = [.read 0xA000, .read 0xA000] ∧
    (ready false [.read 0xFEFF, .read 0xFEFF] []).block.isColorMode = false ∧
    (((0x7FFF : Addr).toNat - 0x4000) + 0x4000 * (banked 127 0 false []).block.currentRomBank.toNat <
      (banked 127 0 false []).session.romSize) := by decide

theorem witness_ReadMapHoldsForEveryAddress :
    (readMap.map fun r => r.has (BitVec.ofNat 16 r.lo) && r.has (BitVec.ofNat 16 (r.hi - 1))) =
      List.replicate 9 true := by decide

/-- The ROM row's two cases: an offset inside the ROM's size, and one beyond it; and a mediator's row. -/
theorem witness_ReadMapHoldsForEveryAddress_bytes :
    ReadTarget.rom.byte (banked 127 0 false []) 0x7FFF = Config.romByte 0x1FFFFF ∧
    ReadTarget.rom.byte { banked 127 0 false [] with session := { hasRam := true, rombReset := 0, romSize := 0x1FFFFF } }
      0x7FFF = 0xA5 ∧
    ReadTarget.gen.byte (banked 0 0 false []) 0x0000 = 0xA5 := ⟨rfl, rfl, rfl⟩

theorem witness_RamEnableWriteSetsTheLatch :
    endsMeet 0x0000 0x2000 0x0000 0x1FFF = true ∧ (ready false [] []).session.hasRam = true ∧
    (withoutRam (ready false [] [])).session.hasRam = false := by decide

theorem witness_RomBankWriteSelectsNonzeroBank : endsMeet 0x2000 0x4000 0x2000 0x3FFF = true := by decide

theorem witness_RamBankWriteSelectsTheLowTwoBits :
    endsMeet 0x4000 0x6000 0x4000 0x5FFF = true ∧ (0x07 : Byte).toNat < 0x08 ∧ 0x0C < (0x0D : Byte).toNat := by decide

theorem witness_ClockStubWritesAreInert :
    (endsMeet 0x4000 0x6000 0x4000 0x5FFF && endsMeet 0x6000 0x8000 0x6000 0x7FFF) = true ∧
    0x08 ≤ (0x08 : Byte).toNat ∧ (0x0C : Byte).toNat ≤ 0x0C := by decide

/-- Every port at both ends, with a byte of every kind. -/
theorem witness_AnyByteMayBeWrittenToAnyPort :
    [0x0000, 0x1FFF, 0x2000, 0x3FFF, 0x4000, 0x5FFF, 0x6000, 0x7FFF].all (fun a : Addr => decide (a.toNat < 0x8000)) = true ∧
    (banked 5 1 true [.write 0x5FFF 0x0C]).phase = .running := by decide

theorem witness_ControlWritesTouchOneRegisterAtMost :
    (banked 5 1 true [.write 0x7FFF 0x01]).phase = .running ∧ (0x7FFF : Addr).toNat < 0x8000 := by decide

theorem witness_OwnWritesAreIdempotent :
    (banked 0 2 true [.write 0xA010 0x00, .write 0xA010 0x00]).phase = .running ∧
    Memory.wf (banked 0 2 true []).block.ramBanks = true ∧ (0x7FFF : Addr).toNat < 0x8000 ∧
    endsMeet 0xA000 0xC000 0xA000 0xBFFF = true := by decide

theorem witness_SingleForwardsWriteTheRawByteOnce :
    (Instr.wrCvram 0x9FFF 0x11).wellFormed true = true ∧ (Instr.wrCwramTop 0xDFFF 0x05).wellFormed true = true ∧
    (Instr.wrUnused 0xFEA0 0x0B).wellFormed false = true ∧ (Instr.wrGen 0xFFFF 0x0E).wellFormed true = true ∧
    (Instr.wrGen 0x8000 0x11).wellFormed false = true := by decide

theorem witness_ExternalRamWriteStoresOneByteOrIsDropped :
    endsMeet 0xA000 0xC000 0xA000 0xBFFF = true ∧ Memory.wf (banked 0 3 true []).block.ramBanks = true ∧
    (banked 0 3 true []).block.ramEnabled = true ∧ (banked 0 3 false []).block.ramEnabled = false := by decide

theorem witness_MirroredStoresWriteBothCopies :
    (Instr.wrWramEchoUp 0xDDFF 0x02).wellFormed false = true ∧ (Instr.wrWramEchoUp 0xCFFF 0x04).wellFormed true = true ∧
    (Instr.wrCwramEchoUp 0xD000 0x03).wellFormed true = true ∧ (Instr.wrEchoDown 0xFDFF 0x07).wellFormed false = true ∧
    (Instr.wrEchoCwramDown 0xF000 0x08).wellFormed true = true := by decide

theorem witness_DataWritesChangeNoRegister :
    endsMeet 0x8000 0x10000 0x8000 0xFFFF = true ∧ (ready true [.write 0xFFFF 0x0E] []).phase = .running := by decide

theorem witness_WriteMapHoldsForEveryAddress :
    (writeMap.map fun r => r.has (BitVec.ofNat 16 r.lo) && r.has (BitVec.ofNat 16 (r.hi - 1))) =
      List.replicate 14 true := by decide

theorem witness_EchoKeepsBothCopiesEqual :
    (endsMeet 0xC000 0xDE00 0xC000 0xDDFF && endsMeet 0xC000 0xD000 0xC000 0xCFFF) = true ∧
    (ready false [.write 0xDDFF 0x02] []).block.isColorMode = false ∧
    (ready true [.write 0xCFFF 0x04] []).phase = .running := by decide

/-- Color mode, a step that writes the generic store: the echo copy of P4 line 4. -/
theorem witness_ColorModeSparesTheGenericSwitchableWorkRam :
    ∃ t, step (ready true [.write 0xD005 0x3C] []) = .next t ∧ Call.medWrite (.generic 0xF005 0x3C) ∈ t.out.calls :=
  ⟨_, rfl, by decide⟩

/-- Both clauses: a disabled access at each end of the window, and a step that is diagnosed. -/
theorem witness_DisabledRamAccessIsDiagnosedOnly :
    (Operation.read 0xA000).inXramWindow = true ∧ (Operation.write 0xBFFF 0x11).inXramWindow = true ∧
    (ready false [] []).block.ramEnabled = false ∧
    ∃ t, step (ready false [.write 0xBFFF 0x11] []) = .next t ∧ t.out.diag ≠ .none :=
  ⟨by decide, by decide, by decide, _, rfl, by decide⟩

theorem witness_RamEnableGatesNothingElse :
    (Operation.read 0x9FFF).inXramWindow = false ∧ (Operation.write 0xC000 0x01).inXramWindow = false ∧
    (Operation.reset false).inXramWindow = false ∧ (ready true [.write 0xC000 0x01] []).phase = .running := by decide

/-- A store that changes a byte. -/
theorem witness_BytesChangeOnlyByStoreOrReset :
    ∃ t, step (banked 0 2 true [.write 0xA010 0x42]) = .next t ∧
      t.xramByte 0x4010 ≠ (banked 0 2 true [.write 0xA010 0x42]).xramByte 0x4010 :=
  ⟨_, rfl, by decide⟩

theorem witness_WithoutRamTheWindowReadsZero :
    (withoutRam (ready false [.read 0xBFFF] [])).Inv ∧ (withoutRam (ready false [.write 0x1FFF 0x0A] [])).Inv ∧
    (withoutRam (ready false [.read 0xBFFF] [])).session.hasRam = false ∧ endsMeet 0xA000 0xC000 0xA000 0xBFFF = true ∧
    endsMeet 0x0000 0x2000 0x0000 0x1FFF = true :=
  ⟨⟨rfl, fun _ => ⟨rfl, fun _ => rfl⟩⟩, ⟨rfl, fun _ => ⟨rfl, fun _ => rfl⟩⟩, rfl, by decide, by decide⟩

theorem witness_ResetStateIsWhatResetLeaves :
    ({ banked 5 3 true [.reset false] with session := State.reset.session } : State).session = State.reset.session ∧
    ({ banked 5 3 true [.reset false] with session := State.reset.session } : State).pending = [.reset false] := by decide

theorem witness_OnlyResetChangesTheMode :
    (∃ t, step (banked 5 3 true [.write 0x2000 0x00]) = .next t) ∧ (Operation.write 0x2000 0x00).isReset = false :=
  ⟨⟨_, rfl⟩, rfl⟩

/-- The three clauses, at the ends of each port and of each window, the window's for a read and for a write; the latch with
and without RAM in the cartridge. -/
theorem witness_BankSwitchIsInForceForTheNextRead :
    (banked 5 3 true [.write 0x3FFF 0xFF, .read 0x7FFF]).pending = [.write 0x3FFF 0xFF, .read 0x7FFF] ∧
    (endsMeet 0x2000 0x4000 0x2000 0x3FFF && endsMeet 0x4000 0x8000 0x4000 0x7FFF) = true ∧
    (banked 5 3 true [.write 0x4000 0x0D, .read 0xBFFF]).block.ramEnabled = true ∧
    (endsMeet 0x4000 0x6000 0x4000 0x5FFF && endsMeet 0xA000 0xC000 0xA000 0xBFFF) = true ∧
    (0x07 : Byte).toNat < 0x08 ∧ 0x0C < (0x0D : Byte).toNat ∧
    (banked 5 3 false [.write 0x1FFF 0x0A, .write 0xBFFF 0x42]).pending = [.write 0x1FFF 0x0A, .write 0xBFFF 0x42] ∧
    endsMeet 0x0000 0x2000 0x0000 0x1FFF = true ∧ (ready false [] []).latchAfter 0x0A = true ∧
    (withoutRam (ready false [] [])).latchAfter 0x0A = false := by decide

theorem witness_StepKeepsTheInvariant :
    (banked 5 2 true [.write 0xA010 0x00]).Inv ∧ ∃ t, step (banked 5 2 true [.write 0xA010 0x00]) = .next t :=
  ⟨⟨rfl, fun h => absurd h (by decide)⟩, _, rfl⟩

theorem witness_ModeIsThatOfTheLastReset :
    (ready false [] []).phase = .running ∧
    lastColorMode false [.read 0x0000, .reset true, .write 0x2000 0x05, .reset false] = false ∧
    lastColorMode false [.reset true, .write 0x2000 0x05] = true := by decide

theorem witness_RomBankIsZeroExactlyUntilFirstSelected :
    (∀ op ∈ [Operation.read 0x4000, .write 0x1FFF 0x05, .write 0x4000 0x05, .write 0x2000 0x00], op.isReset = false) ∧
    (Operation.write 0x1FFF 0x05).selectsRomBank = false ∧ (Operation.write 0x4000 0x05).selectsRomBank = false ∧
    (Operation.write 0x2000 0x00).selectsRomBank = true ∧ (Operation.write 0x3FFF 0x00).selectsRomBank = true := by decide

/-- A store at the last byte of bank 3, then RAM disabled and another bank selected and the first one again. -/
theorem witness_ExternalRamRoundTrip :
    ∃ s1 t : State,
      Memory.wf (banked 0 3 true []).block.ramBanks = true ∧ (banked 0 3 true []).phase = .running ∧
      step { banked 0 3 true [] with pending := .write 0xBFFF 0x99 ::
        ([.write 0x0000 0x00, .write 0x4000 0x01, .write 0x4000 0x03] ++ [.read 0xBFFF]) } = .next s1 ∧
      (∀ n < 3, ∀ u, runSteps n s1 = .next u → ¬ u.WritesByte ((banked 0 3 true []).xramIndexOf 0xBFFF)) ∧
      runSteps 3 s1 = .next t ∧ t.block.currentRamBank = (banked 0 3 true []).block.currentRamBank := by
  refine ⟨_, _, rfl, rfl, rfl, ?_, rfl, rfl⟩
  intro n hn u hu hw
  have h : n = 0 ∨ n = 1 ∨ n = 2 := by omega
  rcases h with rfl | rfl | rfl <;> cases hu <;> exact absurd hw.1 (by decide)

/-- A read of each kind, a write with two strobes, and a write of the RAM-enable port at its last address. -/
theorem witness_PortsCarryTheStepsData :
    (∃ t, step (banked 127 0 false [.read 0x7FFF]) = .next t ∧ t.out.outPorts.ROM_A = some 0x1FFFFF) ∧
    (∃ t, step (ready true [.read 0x9FFF] [0xB6]) = .next t ∧ t.out.outPorts.M.map (·.M_RE) = [true]) ∧
    (∃ t, step (ready true [.write 0xD005 0x3C] []) = .next t ∧ t.out.outPorts.M.map (·.M_WE) = [true, true]) ∧
    (ready false [.write 0x1FFF 0x0A] []).inPorts.WR = true ∧ (ready false [.write 0x1FFF 0x0A] []).phase = .running ∧
    (ready false [.write 0x1FFF 0x0A] []).inPorts.A.toNat < 0x2000 :=
  ⟨⟨_, rfl, rfl⟩, ⟨_, rfl, rfl⟩, ⟨_, rfl, rfl⟩, rfl, rfl, by decide⟩

end Sys2Proof.Tests
end

/-! # Proofs of the scope family (spec/00_scope.md)

The bytes of an operation decode to its band; every meaning answers a next state; what a meaning lists and returns, by the
kind of operation; and the ports of R12 over these. -/

namespace Sys2Proof

/-! ### The bytes of an operation -/

/-- The four bytes of a key decode to the key's instruction. -/
theorem decode_leBytes_key (k : Key) : decode (leBytes 4 k.toNat) = .ok (decodeKey k) := by
  have hk : k.toNat < 2 ^ 26 := k.isLt
  have hback : BitVec.ofNat 26 (ofLeBytes (leBytes 4 k.toNat)) = k := by
    rw [ofLeBytes_leBytes, Nat.mod_eq_of_lt (by omega), BitVec.ofNat_toNat, BitVec.setWidth_eq]
  have htop : (BitVec.ofNat 8 (k.toNat / 256 / 256 / 256)).toNat < 4 := by
    rw [BitVec.toNat_ofNat]; omega
  simp only [leBytes] at hback ⊢
  simp only [decode, if_pos htop, hback]

/-- The decoder reads from an operation's bytes the band that the step runs. -/
@[simp] theorem decode_bytes (cm : Bool) (op : Operation) : decode (op.bytes cm) = .ok (decodeOperation cm op) := by
  cases op with
  | read a => exact decode_leBytes_key _
  | write a v => exact decode_leBytes_key _
  | reset c => cases c <;> rfl

/-! ### A band is a band of the operation it was decoded from -/

theorem decodeRead_operation (cm : Bool) (a : Addr) : (decodeRead cm a).operation = .read a := by
  unfold decodeRead
  split_ifs <;> rfl

theorem decodeWrite_operation (cm : Bool) (a : Addr) (v : Byte) : (decodeWrite cm a v).operation = .write a v := by
  unfold decodeWrite
  split_ifs <;> rfl

@[simp] theorem decodeOperation_operation (cm : Bool) (op : Operation) : (decodeOperation cm op).operation = op := by
  cases op with
  | read a => rw [decodeOperation_read, decodeRead_operation]
  | write a v => rw [decodeOperation_write, decodeWrite_operation]
  | reset c => rfl

/-- The RAM-enable port (R121). -/
theorem decodeWrite_ramEnablePort (cm : Bool) {a : Addr} (v : Byte) (h : a.toNat < 0x2000) :
    decodeWrite cm a v = .wrRamg a v :=
  if_pos ((inRange_iff _ _ _).mpr ⟨Nat.zero_le _, h⟩)

end Sys2Proof

namespace Sys2Proof.Machine

variable {s t : State} {i : Instr} {op : Operation} {rest : List Operation}

/-! ### Every meaning answers a next state, and what becomes of the lifecycle -/

/-- No meaning faults or refuses (R160). -/
theorem exec_next (i : Instr) (s : State) : ∃ t, exec i s = .next t := by
  cases i
  case rdXram a =>
    cases he : s.block.ramEnabled
    · exact ⟨_, execRdXram_disabled a he⟩
    · exact ⟨_, execRdXram_enabled a he⟩
  case wrXram a v =>
    cases he : s.block.ramEnabled
    · exact ⟨_, execWrXram_disabled a v he⟩
    · exact ⟨_, execWrXram_enabled a v he⟩
  all_goals exact ⟨_, rfl⟩

/-- A read of the external-RAM window, enabled or not, changes the record alone (R103). -/
theorem exec_rdXram_next {a : Addr} (h : exec (.rdXram a) s = .next t) :
    ∃ d v, t = (s.startRecord.raiseDiag d).returnByte v := by
  cases he : s.block.ramEnabled
  · cases (execRdXram_disabled a he).symm.trans h; exact ⟨_, _, rfl⟩
  · cases (execRdXram_enabled a he).symm.trans h; exact ⟨.none, _, rfl⟩

/-- A write of the external-RAM window, enabled or not, changes the byte store and the diagnostic alone (R142). -/
theorem exec_wrXram_next {a : Addr} {v : Byte} (h : exec (.wrXram a v) s = .next t) :
    ∃ m d, t = { s.startRecord.raiseDiag d with block := { s.block with ramBanks := m } } := by
  cases he : s.block.ramEnabled
  · cases (execWrXram_disabled a v he).symm.trans h; exact ⟨s.block.ramBanks, .xramWrDisabled, rfl⟩
  · cases (execWrXram_enabled a v he).symm.trans h; exact ⟨_, .none, rfl⟩

/-- Only `Reset` touches the lifecycle (R38). -/
theorem exec_phase (h : exec i s = .next t) :
    t.phase = if i.operation.isReset then .running else s.phase := by
  cases i
  case rdRomx a => cases h; exact State.readRom_phase s.startRecord _
  case rdXram a => obtain ⟨d, v, rfl⟩ := exec_rdXram_next h; rfl
  case wrXram a v => obtain ⟨m, d, rfl⟩ := exec_wrXram_next h; rfl
  all_goals cases h; rfl

theorem exec_phase_running (h : exec i s = .next t) (hr : s.phase = .running) : t.phase = .running := by
  rw [exec_phase h, hr, ite_self]

/-- An operation has a meaning once the first `Reset` is past, and a `Reset` always (R38). -/
theorem State.admits_iff : s.admits op = true ↔ s.phase = .running ∨ op.isReset = true := by
  cases op <;> simp [State.admits, Operation.isReset]

/-- An operation that the lifecycle admits has a next state, and the first `Reset` is then past. -/
theorem step_next_of_admits (h : s.pending = op :: rest) (ha : s.admits op = true) :
    ∃ t, step s = .next t ∧ t.phase = .running := by
  obtain ⟨t, ht⟩ := exec_next (decodeOperation s.block.isColorMode op) (s.afterFetch rest)
  refine ⟨t, by rw [step_operation h ha, ht], ?_⟩
  rw [exec_phase ht, decodeOperation_operation]
  rcases State.admits_iff.mp ha with hr | hr <;> simp [hr]

/-- Settles O13: no meaning fails, and the lifecycle admits every operation from the first `Reset` on. -/
theorem everyOperationHasANextState : Obligations.EveryOperationHasANextState := by
  refine ⟨exec_next, fun s hr => ?_, fun s c rest hp => step_next_of_admits hp (State.admits_reset c)⟩
  cases hp : s.pending with
  | nil => exact ⟨_, step_idle hp, hr⟩
  | cons op rest => exact step_next_of_admits hp (State.admits_running hr op)

/-! ### The environment's answers -/

/-- The state with other answers of the environment to come. -/
def State.withAnswers (ans : List Byte) (n : Nat) (s : State) : State := { s with answers := ans, draws := n }

/-- The two states differ in nothing but the answers still to come and the byte returned. -/
def State.SameButForAnswers (t u : State) : Prop :=
  u.block = t.block ∧ u.session = t.session ∧ u.phase = t.phase ∧ u.pending = t.pending ∧
  u.out.calls = t.out.calls ∧ u.out.diag = t.out.diag ∧ u.out.data.isSome = t.out.data.isSome

/-- A ROM read lists its call and returns a byte, whichever of the two sources the byte has. -/
theorem State.readRom_sameButForAnswers (ans : List Byte) (n : Nat) (off : RomOffset) :
    (s.startRecord.readRom off).SameButForAnswers ((s.withAnswers ans n).startRecord.readRom off) := by
  simp [State.SameButForAnswers, State.withAnswers]

/-- With other answers a meaning does the same, but for the byte it returns (R7). -/
theorem exec_withAnswers (ans : List Byte) (n : Nat) (h : exec i s = .next t) :
    ∃ u, exec i (s.withAnswers ans n) = .next u ∧ t.SameButForAnswers u := by
  cases i
  case rdRomx a => cases h; exact ⟨_, rfl, State.readRom_sameButForAnswers ans n _⟩
  case rdXram a =>
    cases he : s.block.ramEnabled
    · cases (execRdXram_disabled a he).symm.trans h
      exact ⟨_, execRdXram_disabled a he, rfl, rfl, rfl, rfl, rfl, rfl, rfl⟩
    · cases (execRdXram_enabled a he).symm.trans h
      exact ⟨_, execRdXram_enabled a he, rfl, rfl, rfl, rfl, rfl, rfl, rfl⟩
  case wrXram a v =>
    cases he : s.block.ramEnabled
    · cases (execWrXram_disabled a v he).symm.trans h
      exact ⟨_, execWrXram_disabled a v he, rfl, rfl, rfl, rfl, rfl, rfl, rfl⟩
    · cases (execWrXram_enabled a v he).symm.trans h
      exact ⟨_, execWrXram_enabled a v he, rfl, rfl, rfl, rfl, rfl, rfl, rfl⟩
  all_goals cases h; exact ⟨_, rfl, rfl, rfl, rfl, rfl, rfl, rfl, rfl⟩

/-- Settles O15: an idle step has no answer to use, and a meaning uses one for the returned byte only. -/
theorem answersReachOnlyTheReturnedByte : Obligations.AnswersReachOnlyTheReturnedByte := by
  intro s t ans n h
  obtain ⟨hp, rfl⟩ | ⟨op, rest, hp, ha, he⟩ := step_cases h
  · exact ⟨_, step_idle (s := s.withAnswers ans n) hp, rfl, rfl, rfl, rfl, rfl, rfl, rfl⟩
  · obtain ⟨u, hu, hsame⟩ := exec_withAnswers ans n he
    have ha' : (s.withAnswers ans n).admits op = true := by cases op <;> exact ha
    exact ⟨u, (step_operation (s := s.withAnswers ans n) hp ha').trans hu, hsame⟩

/-! ### The calls of a meaning and the byte it returns, by the kind of operation -/

/-- The address a mediator read is at. -/
def MediatorRead.addr : MediatorRead → Addr
  | .generic a => a
  | .colorVideoRAM a _ => a
  | .colorWorkRAM a => a

/-- The byte a mediator write carries. -/
def MediatorWrite.byte : MediatorWrite → Byte
  | .generic _ v => v
  | .colorVideoRAM _ v => v
  | .colorWorkRAM _ v => v

/-- A read asks no collaborator, or the ROM store at the window's offset, or the mediator at its own address; in the last two
cases it returns what was answered (R100). -/
theorem exec_read_record {a : Addr} (hop : i.operation = .read a) (h : exec i s = .next t) :
    t.out.data.isSome = true ∧
    (t.out.calls = [] ∨
      (t.out.calls = [.romReadByte (s.romOffsetOf a)] ∧ t.out.data = some (s.romData (s.romOffsetOf a))) ∨
      ∃ r : MediatorRead, r.addr = a ∧ t.out.calls = [.medRead r] ∧ t.out.data = some s.answer) := by
  cases i <;> cases hop
  case rdRomx => cases h; simp
  case rdXram => obtain ⟨d, v, rfl⟩ := exec_rdXram_next h; exact ⟨rfl, .inl rfl⟩
  case rdOpenbus => cases h; exact ⟨rfl, .inl rfl⟩
  all_goals cases h; exact ⟨rfl, .inr (.inr ⟨_, rfl, rfl, rfl⟩)⟩

/-- A write returns no byte and asks for at most two mediator writes, each of its own data byte (R120, R140). -/
theorem exec_write_record {a : Addr} {v : Byte} (hop : i.operation = .write a v) (h : exec i s = .next t) :
    t.out.data = none ∧
    ∃ ws : List MediatorWrite, t.out.calls = ws.map .medWrite ∧ ws.length ≤ 2 ∧ ∀ w ∈ ws, w.byte = v := by
  cases i <;> cases hop
  case wrXram => obtain ⟨m, d, rfl⟩ := exec_wrXram_next h; exact ⟨rfl, [], rfl, by simp⟩
  case wrRamg | wrRomb | wrRtcsel | wrRamb | wrLatch => cases h; exact ⟨rfl, [], rfl, by simp⟩
  case wrCvram | wrCwramTop | wrUnused | wrGen => cases h; exact ⟨rfl, [_], rfl, by simp [MediatorWrite.byte]⟩
  case wrWramEchoUp | wrCwramEchoUp | wrEchoDown | wrEchoCwramDown =>
    cases h; exact ⟨rfl, [_, _], rfl, by simp [MediatorWrite.byte]⟩

/-- `Reset` returns nothing and calls nothing (R180). -/
theorem exec_reset_record {c : Bool} (h : exec (.reset c) s = .next t) : t.out = StepRecord.empty := by
  cases h; rfl

/-- The latch after a write of the RAM-enable port, by the number written (R121). -/
theorem ramEnabledAfter_eq (hasRam old : Bool) (v : Byte) :
    ramEnabledAfter hasRam old v = if hasRam then decide (v.toNat % 16 = 10) else old := by
  simp only [ramEnabledAfter, ← ramEnableCode_iff, Bool.decide_eq_true]

theorem exec_wrRamg_ramEnabled {a : Addr} {v : Byte} (h : exec (.wrRamg a v) s = .next t) :
    t.block.ramEnabled = if s.session.hasRam then decide (v.toNat % 16 = 10) else s.block.ramEnabled := by
  cases h; exact ramEnabledAfter_eq _ _ _

/-! ### The ports (R12) -/

theorem InPorts.operation?_select (op : Operation) (h : Bool) (r m : Byte) :
    ((InPorts.unselected h r m).select op).operation? = some op := by
  cases op <;> rfl

theorem InPorts.isSome_operation?_iff (p : InPorts) :
    p.operation?.isSome = true ↔ p.RST.toNat + p.RD.toNat + p.WR.toNat = 1 := by
  unfold InPorts.operation?
  cases p.RST <;> cases p.RD <;> cases p.WR <;> simp

theorem MediatorSelect.code_injective : Function.Injective MediatorSelect.code := by
  intro m n
  cases m <;> cases n <;> decide

theorem State.inPorts_operation? (s : State) : s.inPorts.operation? = s.pending.head? := by
  cases hp : s.pending with
  | nil => rw [State.inPorts_nil hp]; rfl
  | cons op rest => rw [State.inPorts_cons hp]; exact InPorts.operation?_select op _ _ _

@[simp] theorem State.inPorts_HAS_RAM (s : State) : s.inPorts.HAS_RAM = s.session.hasRam := by
  cases hp : s.pending with
  | nil => rw [State.inPorts_nil hp]; rfl
  | cons op rest => rw [State.inPorts_cons hp, InPorts.select_HAS_RAM]; rfl

/-- Settles O9: the selects are set and read back by the kind of operation. -/
theorem portsSelectTheOperation : Obligations.PortsSelectTheOperation :=
  ⟨fun op h r m => ⟨InPorts.operation?_select op h r m, InPorts.select_HAS_RAM _ op, InPorts.select_ROM_D _ op,
      InPorts.select_M_RD _ op⟩,
    InPorts.isSome_operation?_iff, fun _ _ h => MediatorSelect.code_injective h,
    fun s => ⟨s.inPorts_operation?, s.inPorts_HAS_RAM⟩⟩

/-! ### The ports of a step carry its data -/

theorem State.inPorts_read {a : Addr} (h : s.pending = .read a :: rest) :
    s.inPorts =
      { A := a, DI := 0, RD := true, WR := false, RST := false, CGB := false, HAS_RAM := s.session.hasRam,
        ROM_D := s.romData (s.romOffsetOf a), M_RD := s.answer } := by
  rw [State.inPorts_cons h, State.portA_read h]; rfl

theorem State.inPorts_write {a : Addr} {v : Byte} (h : s.pending = .write a v :: rest) :
    s.inPorts =
      { A := a, DI := v, RD := false, WR := true, RST := false, CGB := false, HAS_RAM := s.session.hasRam,
        ROM_D := s.romData (s.romOffsetOf a), M_RD := s.answer } := by
  rw [State.inPorts_cons h, State.portA_write h]; rfl

theorem State.inPorts_reset {c : Bool} (h : s.pending = .reset c :: rest) :
    s.inPorts =
      { A := 0, DI := 0, RD := false, WR := false, RST := true, CGB := c, HAS_RAM := s.session.hasRam,
        ROM_D := s.romData (s.romOffsetOf 0), M_RD := s.answer } := by
  rw [State.inPorts_cons h, State.portA_reset h]; rfl

@[simp] theorem StepRecord.outPorts_DO (r : StepRecord) : r.outPorts.DO = r.data := rfl

@[simp] theorem StepRecord.outPorts_ROM_A (r : StepRecord) :
    r.outPorts.ROM_A = (r.calls.filterMap Call.romA?).head? := rfl

@[simp] theorem StepRecord.outPorts_M (r : StepRecord) : r.outPorts.M = r.calls.filterMap Call.strobe? := rfl

/-- A mediator read strobes `M_RE` at its address. -/
theorem MediatorRead.strobe (r : MediatorRead) :
    ∃ m, (Call.medRead r).strobe? = some (MediatorStrobe.ofRead m r.addr) := by
  cases r <;> exact ⟨_, rfl⟩

/-- A mediator write strobes `M_WE` with its byte on `M_WD`. -/
theorem MediatorWrite.strobe (w : MediatorWrite) :
    ∃ m a, (Call.medWrite w).strobe? = some (MediatorStrobe.ofWrite m a w.byte) := by
  cases w <;> exact ⟨_, _, rfl⟩

/-- What `Obligations.PortsCarryTheStepsData` says of the ports of a step from `s` to `t`. -/
def State.PortsCarryData (s t : State) : Prop :=
  t.out.outPorts.DO.isSome = s.inPorts.RD ∧
  (t.out.outPorts.ROM_A.isSome = true → t.out.outPorts.DO = some s.inPorts.ROM_D ∧
    t.out.outPorts.ROM_A = some (s.romOffsetOf s.inPorts.A)) ∧
  (∀ m ∈ t.out.outPorts.M, m.M_RE ≠ m.M_WE ∧
    (m.M_RE = true → m.M_A = s.inPorts.A ∧ t.out.outPorts.DO = some s.inPorts.M_RD) ∧
    (m.M_WE = true → s.inPorts.WR = true ∧ m.M_WD = some s.inPorts.DI)) ∧
  t.out.outPorts.M.length ≤ 2 ∧
  (s.inPorts.WR = true → s.inPorts.A.toNat < 0x2000 →
    t.block.ramEnabled =
      if s.inPorts.HAS_RAM then decide (s.inPorts.DI.toNat % 16 = 10) else s.block.ramEnabled)

/-- A read: no call, or one of the ROM store, or one mediator strobe, each with its answer on `DO`. -/
theorem portsCarryData_read {a : Addr} (hp : s.pending = .read a :: rest)
    (h : exec (decodeOperation s.block.isColorMode (.read a)) (s.afterFetch rest) = .next t) : s.PortsCarryData t := by
  have hin := State.inPorts_read hp
  unfold State.PortsCarryData
  obtain ⟨hdata, hcalls | ⟨hcalls, hrom⟩ | ⟨r, rfl, hcalls, hmed⟩⟩ :=
    exec_read_record (decodeOperation_operation _ _) h
  · simp [hin, hcalls, hdata]
  · simp [hin, hcalls, hrom, Call.romA?, Call.strobe?, List.filterMap_cons]
  · obtain ⟨m, hm⟩ := r.strobe
    simp [hin, hcalls, hmed, Call.romA?, hm]

/-- A write: nothing on `DO` and `ROM_A`, the strobes of its mediator writes, and the latch by `HAS_RAM`. -/
theorem portsCarryData_write {a : Addr} {v : Byte} (hp : s.pending = .write a v :: rest)
    (h : exec (decodeOperation s.block.isColorMode (.write a v)) (s.afterFetch rest) = .next t) :
    s.PortsCarryData t := by
  have hin := State.inPorts_write hp
  obtain ⟨hdata, ws, hcalls, hlen, hbyte⟩ := exec_write_record (decodeOperation_operation _ _) h
  have hstrobes : ∀ m ∈ t.out.outPorts.M, ∃ sel b, m = MediatorStrobe.ofWrite sel b v := by
    intro m hm
    rw [StepRecord.outPorts_M, hcalls, List.filterMap_map, List.mem_filterMap] at hm
    obtain ⟨w, hw, hm⟩ := hm
    obtain ⟨sel, b, hs⟩ := w.strobe
    exact ⟨sel, b, by rw [← hbyte w hw]; exact Option.some.inj (hm.symm.trans hs)⟩
  have hcount : t.out.outPorts.M.length ≤ 2 :=
    calc t.out.outPorts.M.length
      _ ≤ t.out.calls.length := List.length_filterMap_le _ _
      _ = ws.length := by rw [hcalls, List.length_map]
      _ ≤ 2 := hlen
  refine ⟨by simp [hin, hdata], by simp [hcalls, Call.romA?], fun m hm => ?_, hcount, fun _ hport => ?_⟩
  · obtain ⟨sel, b, rfl⟩ := hstrobes m hm
    simp [hin]
  · have ha : a.toNat < 0x2000 := by simpa [hin] using hport
    rw [decodeOperation_write, decodeWrite_ramEnablePort _ v ha] at h
    rw [exec_wrRamg_ramEnabled h, hin]
    rfl

/-- A `Reset`: no port but `DIAG` is driven. -/
theorem portsCarryData_reset {c : Bool} (hp : s.pending = .reset c :: rest)
    (h : exec (.reset c) (s.afterFetch rest) = .next t) : s.PortsCarryData t := by
  simp [State.PortsCarryData, State.inPorts_reset hp, exec_reset_record h]

/-- Settles O52: by the kind of operation, from the calls that its meanings can make. -/
theorem portsCarryTheStepsData : Obligations.PortsCarryTheStepsData := by
  intro s op rest hr hp
  obtain ⟨t, ht⟩ := exec_next (decodeOperation s.block.isColorMode op) (s.afterFetch rest)
  refine ⟨t, (step_operation hp (State.admits_running hr op)).trans ht, ?_, ?_⟩
  · rw [State.inPorts_operation?, hp]; rfl
  · cases op with
    | read a => exact portsCarryData_read hp ht
    | write a v => exact portsCarryData_write hp ht
    | reset c => exact portsCarryData_reset hp ht

/-! ### The step by its operation, and without one -/

/-- Settles O10: the bytes of an operation decode to the band that the step runs. -/
theorem stepRunsTheDecodedOperation : Obligations.StepRunsTheDecodedOperation := by
  intro s op rest i hp hlife hdec
  have hi : decodeOperation s.block.isColorMode op = i := by simpa using hdec
  rw [step_operation hp (State.admits_iff.mpr hlife), hi]
  rfl

/-- Settles O11: an idle step starts an empty record and does nothing else. -/
theorem stepWithoutOperationIdles : Obligations.StepWithoutOperationIdles :=
  fun _ hp => step_idle hp

end Sys2Proof.Machine

/-! # Proofs of the state family (spec/10_state.md)

What each operation does to the block, item by item and the same in both modes (`Block.after`); the step and a whole
history over it; and from these the invariants of R26, who writes each item (R21, R24, R25, R31) and the lifecycle (R38). -/

namespace Sys2Proof

/-! ### The ports and the window that writes decode to, in either mode -/

section
variable {lo hi : Nat} {a : Addr}

theorem inRange_of_mem (h1 : lo ≤ a.toNat) (h2 : a.toNat < hi) : inRange lo hi a = true :=
  (inRange_iff lo hi a).mpr ⟨h1, h2⟩

theorem inRange_of_lt (h : a.toNat < lo) : inRange lo hi a = false := by
  simp [inRange, h]

theorem inRange_of_ge (h : hi ≤ a.toNat) : inRange lo hi a = false := by
  simp [inRange, h]

variable (cm : Bool) (v : Byte)

/-- The ROM-bank port (R122). -/
theorem decodeWrite_romBankPort (h1 : 0x2000 ≤ a.toNat) (h2 : a.toNat < 0x4000) :
    decodeWrite cm a v = .wrRomb a v := by
  simp (disch := omega) only [decodeWrite, inRange_of_ge, inRange_of_mem, Bool.false_eq_true, if_true, if_false]

/-- The dual-purpose port: the clock's values, and all others (R123, R124). -/
theorem decodeWrite_ramBankPort (h1 : 0x4000 ≤ a.toNat) (h2 : a.toNat < 0x6000) :
    decodeWrite cm a v = if selectsClock v then .wrRtcsel a v else .wrRamb a v := by
  simp (disch := omega) only [decodeWrite, inRange_of_ge, inRange_of_mem, Bool.false_eq_true, if_true, if_false]

/-- The latch port (R125). -/
theorem decodeWrite_latchPort (h1 : 0x6000 ≤ a.toNat) (h2 : a.toNat < 0x8000) :
    decodeWrite cm a v = .wrLatch a v := by
  simp (disch := omega) only [decodeWrite, inRange_of_ge, inRange_of_mem, Bool.false_eq_true, if_true, if_false]

/-- The external-RAM window (R142). -/
theorem decodeWrite_xramWindow (h1 : 0xA000 ≤ a.toNat) (h2 : a.toNat < 0xC000) :
    decodeWrite cm a v = .wrXram a v := by
  simp (disch := omega) only [decodeWrite, inRange_of_ge, inRange_of_mem, Bool.and_false, Bool.false_eq_true, if_true,
    if_false]

/-- No other read decodes to a band of the window. -/
theorem decodeRead_band_off_window (h : inRange 0xA000 0xC000 a = false) :
    (decodeRead cm a).band ≠ .rdXram ∧ (decodeRead cm a).band ≠ .wrXram := by
  simp only [decodeRead, h, Bool.false_eq_true, if_false]
  split_ifs <;> exact ⟨nofun, nofun⟩

/-- No other write decodes to a band of the window. -/
theorem decodeWrite_band_off_window (h : inRange 0xA000 0xC000 a = false) :
    (decodeWrite cm a v).band ≠ .rdXram ∧ (decodeWrite cm a v).band ≠ .wrXram := by
  simp only [decodeWrite, h, Bool.false_eq_true, if_false]
  split_ifs <;> exact ⟨nofun, nofun⟩

theorem decodeOperation_band_off_window {op : Operation} (h : op.inXramWindow = false) :
    (decodeOperation cm op).band ≠ .rdXram ∧ (decodeOperation cm op).band ≠ .wrXram := by
  cases op with
  | read a =>
    rw [decodeOperation_read]
    exact decodeRead_band_off_window cm (by simpa [Operation.inXramWindow, inRange] using h)
  | write a v =>
    rw [decodeOperation_write]
    exact decodeWrite_band_off_window cm v (by simpa [Operation.inXramWindow, inRange] using h)
  | reset c => exact ⟨nofun, nofun⟩

end

end Sys2Proof

namespace Sys2Proof.Machine

variable {s t : State} {i : Instr} {op : Operation} {ops rest : List Operation} {b : Block} {ses : Session}

/-! ### What an operation does to the block -/

/-- The block after a write, item by item, by the writes that reach each (10_state.md R31). -/
def Block.afterWrite (ses : Session) (b : Block) (a : Addr) (v : Byte) : Block :=
  { ramBanks :=
      if 0xA000 ≤ a.toNat ∧ a.toNat < 0xC000 then
        if b.ramEnabled then Memory.write b.ramBanks (xramIndex a b.currentRamBank).toNat v else b.ramBanks
      else b.ramBanks
    currentRomBank := if 0x2000 ≤ a.toNat ∧ a.toNat < 0x4000 then romBankOf v else b.currentRomBank
    currentRamBank :=
      if 0x4000 ≤ a.toNat ∧ a.toNat < 0x6000 then if selectsClock v then b.currentRamBank else ramBankOf v
      else b.currentRamBank
    ramEnabled := if a.toNat < 0x2000 then ramEnabledAfter ses.hasRam b.ramEnabled v else b.ramEnabled
    isColorMode := b.isColorMode }

/-- The block after an operation. -/
def Block.after (ses : Session) (b : Block) : Operation → Block
  | .read _ => b
  | .write a v => b.afterWrite ses a v
  | .reset c => resetBlock ses.rombReset c

section
variable (ses) (b) {a : Addr} (v : Byte)

theorem Block.afterWrite_ramEnablePort (h : a.toNat < 0x2000) :
    b.afterWrite ses a v = { b with ramEnabled := ramEnabledAfter ses.hasRam b.ramEnabled v } := by
  simp (disch := omega) only [Block.afterWrite, if_pos, if_neg]

theorem Block.afterWrite_romBankPort (h1 : 0x2000 ≤ a.toNat) (h2 : a.toNat < 0x4000) :
    b.afterWrite ses a v = { b with currentRomBank := romBankOf v } := by
  simp (disch := omega) only [Block.afterWrite, if_pos, if_neg]

theorem Block.afterWrite_ramBankPort (h1 : 0x4000 ≤ a.toNat) (h2 : a.toNat < 0x6000) :
    b.afterWrite ses a v =
      { b with currentRamBank := if selectsClock v then b.currentRamBank else ramBankOf v } := by
  simp (disch := omega) only [Block.afterWrite, if_pos, if_neg]

theorem Block.afterWrite_xramWindow (h1 : 0xA000 ≤ a.toNat) (h2 : a.toNat < 0xC000) :
    b.afterWrite ses a v =
      { b with ramBanks :=
          if b.ramEnabled then Memory.write b.ramBanks (xramIndex a b.currentRamBank).toNat v else b.ramBanks } := by
  simp (disch := omega) only [Block.afterWrite, if_pos, if_neg]

/-- The latch port, and all that is forwarded. -/
theorem Block.afterWrite_elsewhere (h1 : 0x6000 ≤ a.toNat) (h2 : a.toNat < 0xA000 ∨ 0xC000 ≤ a.toNat) :
    b.afterWrite ses a v = b := by
  simp (disch := omega) only [Block.afterWrite, if_neg]

end

/-- A read writes no state of the block (R100). -/
theorem exec_read_block {a : Addr} (hop : i.operation = .read a) (h : exec i s = .next t) : t.block = s.block := by
  cases i <;> cases hop
  case rdRomx => cases h; exact State.readRom_block s.startRecord _
  case rdXram => obtain ⟨d, v, rfl⟩ := exec_rdXram_next h; rfl
  all_goals cases h; rfl

/-- A write above the ports and outside the external-RAM window only calls the mediator (R140). -/
theorem exec_forward_block {cm : Bool} {a : Addr} {v : Byte} (hports : 0x8000 ≤ a.toNat)
    (hwindow : a.toNat < 0xA000 ∨ 0xC000 ≤ a.toNat) (h : exec (decodeWrite cm a v) s = .next t) :
    t.block = s.block := by
  have hout : inRange 0xA000 0xC000 a = false := hwindow.elim inRange_of_lt inRange_of_ge
  simp (disch := omega) only [decodeWrite, hout, inRange_of_ge, Bool.false_eq_true, if_false] at h
  split_ifs at h <;> cases h <;> rfl

theorem exec_wrXram_block {a : Addr} {v : Byte} (h : exec (.wrXram a v) s = .next t) :
    t.block = if s.block.ramEnabled then (s.storeXram (s.xramIndexOf a) v).block else s.block := by
  cases he : s.block.ramEnabled
  · cases (execWrXram_disabled a v he).symm.trans h; rfl
  · cases (execWrXram_enabled a v he).symm.trans h; rfl

/-- A write does to the block what its address and byte say, in either mode: by the four ports, the window and the rest. -/
theorem exec_write_block {cm : Bool} {a : Addr} {v : Byte} (h : exec (decodeWrite cm a v) s = .next t) :
    t.block = s.block.afterWrite s.session a v := by
  have hrange : a.toNat < 0x2000 ∨ (0x2000 ≤ a.toNat ∧ a.toNat < 0x4000) ∨ (0x4000 ≤ a.toNat ∧ a.toNat < 0x6000) ∨
      (0x6000 ≤ a.toNat ∧ a.toNat < 0x8000) ∨ (0xA000 ≤ a.toNat ∧ a.toNat < 0xC000) ∨
      (0x8000 ≤ a.toNat ∧ (a.toNat < 0xA000 ∨ 0xC000 ≤ a.toNat)) := by omega
  rcases hrange with h1 | ⟨h1, h2⟩ | ⟨h1, h2⟩ | ⟨h1, h2⟩ | ⟨h1, h2⟩ | ⟨h1, h2⟩
  · rw [decodeWrite_ramEnablePort cm v h1] at h
    rw [Block.afterWrite_ramEnablePort _ _ v h1]
    cases h; rfl
  · rw [decodeWrite_romBankPort cm v h1 h2] at h
    rw [Block.afterWrite_romBankPort _ _ v h1 h2]
    cases h; rfl
  · rw [decodeWrite_ramBankPort cm v h1 h2] at h
    rw [Block.afterWrite_ramBankPort _ _ v h1 h2]
    cases hv : selectsClock v <;> rw [hv] at h <;> cases h <;> rfl
  · rw [decodeWrite_latchPort cm v h1 h2] at h
    rw [Block.afterWrite_elsewhere _ _ v h1 (by omega)]
    cases h; rfl
  · rw [decodeWrite_xramWindow cm v h1 h2] at h
    rw [Block.afterWrite_xramWindow _ _ v h1 h2, exec_wrXram_block h]
    split <;> rfl
  · rw [exec_forward_block h1 h2 h, Block.afterWrite_elsewhere _ _ v (by omega) h2]

/-- An operation's effect on the block, in either mode. -/
theorem exec_block {cm : Bool} (h : exec (decodeOperation cm op) s = .next t) :
    t.block = s.block.after s.session op := by
  cases op with
  | read a => exact exec_read_block (decodeOperation_operation cm _) h
  | write a v => exact exec_write_block (by rwa [decodeOperation_write] at h)
  | reset c => cases h; rfl

/-- No meaning touches the session's constants (R34). -/
theorem exec_session (h : exec i s = .next t) : t.session = s.session := by
  cases i
  case rdRomx a => cases h; exact State.readRom_session s.startRecord _
  case rdXram a => obtain ⟨d, v, rfl⟩ := exec_rdXram_next h; rfl
  case wrXram a v => obtain ⟨m, d, rfl⟩ := exec_wrXram_next h; rfl
  all_goals cases h; rfl

/-! ### The step: block, session, queue and lifecycle -/

/-- The inversion of a step, for all but the record and the answers: it was idle, or it performed the operation at the head
of the queue. -/
theorem step_block_cases (h : step s = .next t) :
    t.session = s.session ∧
    ((s.pending = [] ∧ t.block = s.block) ∨
      ∃ op rest, s.pending = op :: rest ∧ t.pending = rest ∧ t.block = s.block.after s.session op) := by
  obtain ⟨hp, rfl⟩ | ⟨op, rest, hp, -, he⟩ := step_cases h
  · exact ⟨rfl, .inl ⟨hp, rfl⟩⟩
  · have hsession := exec_session he
    have hblock := exec_block he
    exact ⟨hsession, .inr ⟨op, rest, hp, exec_pending he, hblock⟩⟩

/-- The step of an operation that the lifecycle admits. -/
theorem step_admitted (hp : s.pending = op :: rest) (ha : s.admits op = true) :
    ∃ t, step s = .next t ∧ t.phase = .running ∧ t.session = s.session ∧ t.pending = rest ∧
      t.block = s.block.after s.session op := by
  obtain ⟨t, ht, hphase⟩ := step_next_of_admits hp ha
  obtain ⟨hsession, ⟨hnil, -⟩ | ⟨_, _, hp', hpending, hblock⟩⟩ := step_block_cases ht
  · cases hp.symm.trans hnil
  · cases hp.symm.trans hp'
    exact ⟨t, ht, hphase, hsession, hpending, hblock⟩

/-- The step of a `Reset`, from any state (R180). -/
theorem step_reset {c : Bool} (hp : s.pending = .reset c :: rest) :
    step s = .next ((s.afterFetch rest).startRecord.setBlock (resetBlock s.session.rombReset c)) :=
  step_operation hp (State.admits_reset c)

/-! ### Histories -/

/-- A history's first operation is one step of it. -/
theorem runOps_cons (ha : s.admits op = true) :
    ∃ t, runOps s (op :: ops) = runOps t ops ∧ t.phase = .running ∧ t.session = s.session ∧
      t.block = s.block.after s.session op := by
  have ha' : ({ s with pending := op :: ops } : State).admits op = true := by cases op <;> exact ha
  obtain ⟨t, ht, hphase, hsession, hpending, hblock⟩ :=
    step_admitted (s := { s with pending := op :: ops }) rfl ha'
  refine ⟨t, ?_, hphase, hsession, hblock⟩
  rw [runOps, runOps, List.length_cons, runSteps_succ _ ht, ← hpending]

/-- Along a history from a running state the block goes through its operations one by one. -/
theorem runOps_block (hr : s.phase = .running) (ops : List Operation) :
    ∃ t, runOps s ops = .next t ∧ t.block = ops.foldl (Block.after s.session) s.block := by
  induction ops generalizing s with
  | nil => exact ⟨_, runSteps_zero _, rfl⟩
  | cons op ops ih =>
    obtain ⟨u, hu, hphase, hsession, hblock⟩ := runOps_cons (ops := ops) (State.admits_running hr op)
    obtain ⟨t, ht, hfold⟩ := ih hphase
    exact ⟨t, hu.trans ht, by rw [hfold, hsession, hblock, List.foldl_cons]⟩

/-! ### The invariant (R26 items d and e) -/

/-- The invariant, of a block in a session. -/
def Block.Inv (ses : Session) (b : Block) : Prop :=
  Memory.wf b.ramBanks = true ∧
  (ses.hasRam = false → b.ramEnabled = false ∧ ∀ i : XramIndex, Memory.read b.ramBanks i.toNat = 0)

theorem State.inv_iff (s : State) : s.Inv ↔ s.block.Inv s.session := Iff.rfl

theorem resetBlock_inv (c : Bool) : (resetBlock ses.rombReset c).Inv ses :=
  ⟨rfl, fun _ => ⟨rfl, fun _ => rfl⟩⟩

/-- Without RAM in the cartridge a latch that is off stays off (R121). -/
theorem ramEnabledAfter_without_ram (old : Bool) (v : Byte) : ramEnabledAfter false old v = old := rfl

theorem Block.Inv.afterWrite (hb : b.Inv ses) (a : Addr) (v : Byte) : (b.afterWrite ses a v).Inv ses := by
  obtain ⟨hwf, hoff⟩ := hb
  constructor
  · simp only [Block.afterWrite]
    split_ifs
    · exact Memory.wf_write hwf (BitVec.isLt _)
    · exact hwf
    · exact hwf
  · intro hram
    obtain ⟨hlatch, hzero⟩ := hoff hram
    simpa [Block.afterWrite, hram, hlatch, ramEnabledAfter_without_ram] using hzero

theorem Block.Inv.after (hb : b.Inv ses) (op : Operation) : (b.after ses op).Inv ses := by
  cases op with
  | read a => exact hb
  | write a v => exact hb.afterWrite a v
  | reset c => exact resetBlock_inv c

/-- Settles O47: an idle step keeps the block, and every operation keeps the invariant of the block. -/
theorem stepKeepsTheInvariant : Obligations.StepKeepsTheInvariant := by
  intro s t hs h
  obtain ⟨hsession, ⟨-, hblock⟩ | ⟨op, rest, -, -, hblock⟩⟩ := step_block_cases h
  · rwa [State.inv_iff, hsession, hblock]
  · rw [State.inv_iff, hsession, hblock]
    exact Block.Inv.after hs op

/-- Settles O48: `Reset`'s block meets the invariant in every session. -/
theorem resetMeetsTheInvariant : Obligations.ResetMeetsTheInvariant :=
  fun _ => resetBlock_inv (ses := { State.reset.session with hasRam := _ }) false

/-! ### Who writes each item -/

/-- Settles O29: the three registers after a write, with the numbers that their ports store. -/
theorem anyByteMayBeWrittenToAnyPort : Obligations.AnyByteMayBeWrittenToAnyPort := by
  intro s a v rest hr hp _
  obtain ⟨t, ht, -, -, -, hblock⟩ := step_admitted hp (State.admits_running hr _)
  refine ⟨t, ht, ?_, ?_, ?_⟩
  all_goals rw [hblock]; simp only [Block.after, Block.afterWrite]
  · rw [ramEnabledAfter_eq, ite_and]
  · rw [apply_ite BitVec.toNat, romBankOf_toNat]
  · rw [apply_ite BitVec.toNat, apply_ite BitVec.toNat, ramBankOf_toNat]
    simp only [selectsClock_iff]
    split_ifs <;> omega

/-- A byte that an operation changes is stored by an enabled write of the window at it, or cleared by a `Reset`. -/
theorem State.writesByte_of_after {i : XramIndex} (hp : s.pending = op :: rest)
    (h : Memory.read (s.block.after s.session op).ramBanks i.toNat ≠ s.xramByte i) : s.WritesByte i := by
  cases op with
  | read a => exact absurd rfl h
  | write a v =>
    simp only [Block.after, Block.afterWrite] at h
    split_ifs at h with hwindow henabled
    · have hindex : i = s.xramIndexOf a := by
        by_contra hne
        exact h (State.storeXram_other s v hne)
      simp [State.WritesByte, hp, hwindow, henabled, hindex]
    · exact absurd rfl h
    · exact absurd rfl h
  | reset c => simp [State.WritesByte, hp]

/-- Settles O41: an idle step and an operation that is neither leave every byte as it was. -/
theorem bytesChangeOnlyByStoreOrReset : Obligations.BytesChangeOnlyByStoreOrReset := by
  intro s t i h hne
  rw [State.xramByte] at hne
  obtain ⟨-, ⟨-, hblock⟩ | ⟨op, rest, hp, -, hblock⟩⟩ := step_block_cases h
  · rw [hblock] at hne; exact absurd rfl hne
  · rw [hblock] at hne; exact State.writesByte_of_after hp hne

theorem Block.after_isColorMode (hop : op.isReset = false) : (b.after ses op).isColorMode = b.isColorMode := by
  cases op with
  | read a => rfl
  | write a v => rfl
  | reset c => cases hop

/-- No write of the ROM-bank port selects bank 0 (R122). -/
theorem romBankOf_ne_zero (v : Byte) : romBankOf v ≠ 0#7 := by
  intro h
  have hmax := romBankOf_toNat v
  rw [h, BitVec.toNat_zero] at hmax
  omega

/-- `currentRomBank` stays 0 until the first write of its port (R186). -/
theorem Block.after_romBank_eq_zero_iff (hop : op.isReset = false) :
    (b.after ses op).currentRomBank = 0 ↔ b.currentRomBank = 0 ∧ op.selectsRomBank = false := by
  cases op with
  | read a => simp [Block.after, Operation.selectsRomBank]
  | write a v =>
    by_cases h : 0x2000 ≤ a.toNat ∧ a.toNat < 0x4000
    · simp [Block.after, Block.afterWrite, Operation.selectsRomBank, h, romBankOf_ne_zero]
    · simp [Block.after, Block.afterWrite, Operation.selectsRomBank, h]
  | reset c => cases hop

/-- Settles O45: no read and no write reaches the mode, and no write selects bank 0. -/
theorem onlyResetChangesTheMode : Obligations.OnlyResetChangesTheMode := by
  intro s t h hhead
  obtain ⟨-, ⟨-, hblock⟩ | ⟨op, rest, hp, -, hblock⟩⟩ := step_block_cases h
  · rw [hblock]; exact ⟨rfl, id⟩
  · rw [hblock]
    have hop := hhead op rest hp
    exact ⟨Block.after_isColorMode hop, fun h0 => ((Block.after_romBank_eq_zero_iff hop).mp h0).1⟩

/-! ### The mode and the ROM bank along a history (R26 items a and f) -/

theorem foldl_after_isColorMode (ses : Session) (b : Block) (ops : List Operation) :
    (ops.foldl (Block.after ses) b).isColorMode = lastColorMode b.isColorMode ops := by
  induction ops generalizing b with
  | nil => rfl
  | cons op ops ih =>
    rw [List.foldl_cons, ih]
    cases op <;> rfl

/-- Settles O49: the mode follows the history's operations one by one. -/
theorem modeIsThatOfTheLastReset : Obligations.ModeIsThatOfTheLastReset := by
  intro s ops hr
  obtain ⟨t, ht, hblock⟩ := runOps_block hr ops
  exact ⟨t, ht, by rw [hblock, foldl_after_isColorMode]⟩

theorem foldl_after_romBank_eq_zero_iff (hops : ∀ op ∈ ops, op.isReset = false) :
    (ops.foldl (Block.after ses) b).currentRomBank = 0 ↔
      b.currentRomBank = 0 ∧ ∀ op ∈ ops, op.selectsRomBank = false := by
  induction ops generalizing b with
  | nil => simp
  | cons op ops ih =>
    rw [List.forall_mem_cons] at hops
    rw [List.foldl_cons, ih hops.2, Block.after_romBank_eq_zero_iff hops.1, List.forall_mem_cons, and_assoc]

theorem resetBlock_romBank_eq_zero_iff (n : Fin 2) (c : Bool) : (resetBlock n c).currentRomBank = 0 ↔ n = 0 := by
  revert n; cases c <;> decide

/-- Settles O50: `Reset` leaves `ROMB_RESET`, and the rest of the history has no other. -/
theorem romBankIsZeroExactlyUntilFirstSelected : Obligations.RomBankIsZeroExactlyUntilFirstSelected := by
  intro s c ops hops
  obtain ⟨u, hu, hphase, -, hblock⟩ := runOps_cons (ops := ops) (State.admits_reset (s := s) c)
  obtain ⟨t, ht, hfold⟩ := runOps_block hphase ops
  refine ⟨t, hu.trans ht, ?_⟩
  rw [hfold, foldl_after_romBank_eq_zero_iff hops, hblock, Block.after, resetBlock_romBank_eq_zero_iff]

/-! ### The lifecycle and the state after reset (R37, R38) -/

/-- Settles O12: a transaction is not admitted, and a `Reset` sets the whole block. -/
theorem beforeTheFirstResetOnlyResetRuns : Obligations.BeforeTheFirstResetOnlyResetRuns := by
  intro b ses op rest ans n
  refine ⟨fun hop => step_refused rfl ?_, ?_⟩
  · cases op with
    | read a => rfl
    | write a v => rfl
    | reset c => cases hop
  · rintro c rfl
    refine ⟨_, step_reset rfl, rfl, rfl, ?_, rfl, rfl, fun _ => rfl⟩
    exact Nat.mod_eq_of_lt (by omega)

/-- Settles O44: `Reset` sets the whole block from the session and its argument. -/
theorem resetStateIsWhatResetLeaves : Obligations.ResetStateIsWhatResetLeaves := by
  intro s rest hsession hp
  refine ⟨_, step_reset hp, ?_, rfl, rfl⟩
  rw [State.setBlock_block, hsession]
  rfl

/-! ### The latch gates the external-RAM window alone (R24) -/

theorem State.setRamEnabled_readRom (l : Bool) (off : RomOffset) :
    (s.setRamEnabled l).readRom off = (s.readRom off).setRamEnabled l := by
  rcases lt_or_ge off.toNat s.session.romSize with hoff | hoff
  · rw [State.readRom_inside s hoff, State.readRom_inside (s.setRamEnabled l) hoff]; rfl
  · rw [State.readRom_beyond s hoff, State.readRom_beyond (s.setRamEnabled l) hoff]; rfl

theorem State.setRamEnabled_writeMediator (l : Bool) (w : MediatorWrite) :
    (s.setRamEnabled l).writeMediator w = (s.writeMediator w).setRamEnabled l := rfl

/-- Off the window a meaning commutes with setting the latch, but for the value in which it leaves the latch. -/
theorem exec_setRamEnabled (l : Bool) (hrd : i.band ≠ .rdXram) (hwr : i.band ≠ .wrXram) (h : exec i s = .next t) :
    ∃ l', exec i (s.setRamEnabled l) = .next (t.setRamEnabled l') := by
  cases i
  case rdRomx a =>
    cases h
    exact ⟨l, congrArg Host.Outcome.next (State.setRamEnabled_readRom (s := s.startRecord) l _)⟩
  case rdXram a => exact absurd rfl hrd
  case wrXram a v => exact absurd rfl hwr
  case wrRamg a v => cases h; exact ⟨ramEnabledAfter s.session.hasRam l v, rfl⟩
  case reset c => cases h; exact ⟨false, rfl⟩
  case wrWramEchoUp | wrCwramEchoUp | wrEchoDown | wrEchoCwramDown =>
    cases h
    exact ⟨l, congrArg (fun u => Host.Outcome.next (State.writeMediator _ u))
      (State.setRamEnabled_writeMediator (s := s.startRecord) l _)⟩
  all_goals cases h; exact ⟨l, rfl⟩

/-- Settles O40: the latch is set before the step or after it, and the record is the same. -/
theorem ramEnableGatesNothingElse : Obligations.RamEnableGatesNothingElse := by
  intro s op rest l hr hp hop
  obtain ⟨t, ht⟩ := exec_next (decodeOperation s.block.isColorMode op) (s.afterFetch rest)
  obtain ⟨hrd, hwr⟩ := decodeOperation_band_off_window s.block.isColorMode hop
  obtain ⟨l', hu⟩ := exec_setRamEnabled l hrd hwr ht
  exact ⟨t, t.setRamEnabled l', (step_operation hp (State.admits_running hr op)).trans ht,
    (step_operation (s := s.setRamEnabled l) hp (State.admits_running hr op)).trans hu,
    rfl, rfl, rfl, rfl, rfl, rfl, rfl⟩

end Sys2Proof.Machine

/-! # Proofs of the memory family (spec/20_memory.md)

The address formulas as bit fields; the bands of a read; the two address maps, which tile the address space and whose
targets say what a step calls, returns and leaves; the accesses of the external-RAM window; and from these what two
operations in a row do (R54, R55, R61), the echo (R67) and the round trip (R66). -/

namespace Sys2Proof.Machine

variable {a : Addr}

/-! ### The address formulas (R60) -/

/-- A number made of a bank and the low bits of an address is their concatenation. -/
theorem eq_append_extractLsb' {k n : Nat} (bank : BitVec n) (x : BitVec (n + k))
    (h : x.toNat = bank.toNat * 2 ^ k + a.toNat % 2 ^ k) : x = bank ++ a.extractLsb' 0 k := by
  apply BitVec.eq_of_toNat_eq
  have hlow : a.toNat % 2 ^ k < 2 ^ k := Nat.mod_lt _ (Nat.two_pow_pos k)
  rw [BitVec.toNat_append, BitVec.extractLsb'_toNat, Nat.shiftRight_zero, ← Nat.shiftLeft_add_eq_or_of_lt hlow,
    Nat.shiftLeft_eq, h]

/-- Without a bit in common a sum has no carry. -/
theorem add_eq_xor_of_and_eq_zero {w : Nat} {x y : BitVec w} (h : x &&& y = 0#w) : x + y = x ^^^ y := by
  rw [BitVec.add_eq_or_of_and_eq_zero x y h]
  ext i hi
  have hbit : (x[i] && y[i]) = false := by
    rw [← BitVec.getElem_and, h, BitVec.getElem_zero]
  rw [BitVec.getElem_or, BitVec.getElem_xor]
  cases hx : x[i] <;> simp_all

/-- Mirroring up sets bit 13 where it is clear. -/
theorem mirrorUp_eq_xor (h : a.toNat / 2 ^ 13 % 2 = 0) : mirrorUp a = a ^^^ 0x2000 := by
  have hbit : a.getLsbD 13 = false := by
    rw [BitVec.getLsbD, Nat.testBit_eq_decide_div_mod_eq, h]; rfl
  have hand : a &&& BitVec.twoPow 16 13 = 0#16 := by
    rw [BitVec.and_twoPow, hbit]; rfl
  exact add_eq_xor_of_and_eq_zero hand

theorem mirrorUp_mirrorDown (a : Addr) : mirrorUp (mirrorDown a) = a :=
  BitVec.sub_add_cancel a 0x2000

/-- Mirroring down clears bit 13 where mirroring back up sets it. -/
theorem mirrorDown_eq_xor (h : (mirrorDown a).toNat / 2 ^ 13 % 2 = 0) : mirrorDown a = a ^^^ 0x2000 := by
  have hup : a = mirrorDown a ^^^ 0x2000 := by rw [← mirrorUp_eq_xor h, mirrorUp_mirrorDown]
  rw [hup, BitVec.xor_assoc, BitVec.xor_self, BitVec.xor_zero, ← hup]

/-- Settles O7: each formula's exact number, and the bits that it adds or clears. -/
theorem addressFormulasAreBitFields : Obligations.AddressFormulasAreBitFields := by
  refine ⟨fun a n h1 h2 => ?_, fun a n h1 h2 => ?_, fun a h1 h2 => ?_, fun a h1 h2 => ?_⟩
  · refine eq_append_extractLsb' (k := 14) n (romOffset a n) ?_
    rw [romOffset_toNat h1 h2]; omega
  · refine eq_append_extractLsb' (k := 13) n (xramIndex a n) ?_
    rw [xramIndex_toNat h1 h2]; omega
  · have hup : (mirrorUp a).toNat = a.toNat + 0x2000 := mirrorUp_toNat (by omega)
    exact ⟨mirrorUp_eq_xor (by omega), by omega, by omega⟩
  · have hdown : (mirrorDown a).toNat = a.toNat - 0x2000 := mirrorDown_toNat (by omega)
    exact ⟨mirrorDown_eq_xor (by omega), by omega, by omega⟩

end Sys2Proof.Machine

namespace Sys2Proof

/-! ### The bands of a read, and of a mirrored write -/

/-- The band of a read is one that the table of disjoint ranges admits (R82). -/
theorem decodeRead_wellFormed (cm : Bool) (a : Addr) : (decodeRead cm a).wellFormed cm = true := by
  cases cm
  all_goals
    simp only [decodeRead, inRange_iff, Bool.true_and, Bool.false_and, Bool.false_eq_true, if_true, if_false]
    split_ifs <;> simp [Instr.wellFormed] <;> omega

section
variable (cm : Bool) {a : Addr}

/-- The ROM window (R101). -/
theorem decodeRead_romWindow (h1 : 0x4000 ≤ a.toNat) (h2 : a.toNat < 0x8000) : decodeRead cm a = .rdRomx a := by
  simp only [decodeRead, inRange_of_mem h1 h2, if_true]

/-- The external-RAM window (R103). -/
theorem decodeRead_xramWindow (h1 : 0xA000 ≤ a.toNat) (h2 : a.toNat < 0xC000) : decodeRead cm a = .rdXram a := by
  simp (disch := omega) only [decodeRead, inRange_of_ge, inRange_of_mem, Bool.and_false, Bool.false_eq_true, if_true,
    if_false]

/-- The unmapped region in non-color mode (R105). -/
theorem decodeRead_openBus (h1 : 0xFEA0 ≤ a.toNat) (h2 : a.toNat < 0xFF00) : decodeRead false a = .rdOpenbus a := by
  simp (disch := omega) only [decodeRead, inRange_of_ge, inRange_of_mem, Bool.and_false, Bool.false_eq_true, if_true,
    if_false]

/-- Work RAM and the echo window, but for color mode's switchable work RAM, are read by the default (R107). -/
theorem decodeRead_workRam (h1 : 0xC000 ≤ a.toNat) (h2 : a.toNat < 0xFE00)
    (h : cm = false ∨ a.toNat < 0xD000 ∨ 0xE000 ≤ a.toNat) : decodeRead cm a = .rdGen a := by
  have hcwram : (cm && inRange 0xD000 0xE000 a) = false := by
    obtain rfl | h | h := h
    · exact Bool.false_and _
    · rw [inRange_of_lt h, Bool.and_false]
    · rw [inRange_of_ge h, Bool.and_false]
  simp (disch := omega) only [decodeRead, hcwram, inRange_of_ge, inRange_of_lt, Bool.and_false, Bool.false_eq_true,
    if_false]

/-- Work RAM below its top 0x200 bytes, but for color mode's switchable work RAM, is mirrored up (R143). -/
theorem decodeWrite_wramEchoUp (v : Byte) (h1 : 0xC000 ≤ a.toNat) (h2 : a.toNat < 0xDE00)
    (h : cm = false ∨ a.toNat < 0xD000) : decodeWrite cm a v = .wrWramEchoUp a v := by
  have hcwram : (cm && inRange 0xD000 0xDE00 a) = false := by
    obtain rfl | h := h
    · exact Bool.false_and _
    · rw [inRange_of_lt h, Bool.and_false]
  simp (disch := omega) only [decodeWrite, hcwram, inRange_of_ge, inRange_of_mem, Bool.and_false, Bool.false_eq_true,
    if_true, if_false]

end

end Sys2Proof

namespace Sys2Proof.Machine

variable {s t : State} {i : Instr} {a : Addr} {v : Byte} {rest : List Operation} {b : Block} {ses : Session}

/-! ### The ranges of the two maps tile the address space -/

/-- The ranges, each beginning where the one before it ends, make up `[lo, hi)`. -/
def Tiles (hi : Nat) : Nat → List (Nat × Nat) → Prop
  | lo, [] => lo = hi
  | lo, r :: rs => r.1 = lo ∧ lo ≤ r.2 ∧ Tiles hi r.2 rs

/-- Of ranges that tile an interval each of its numbers is in exactly one. -/
theorem Tiles.length_filter {hi lo n : Nat} {rs : List (Nat × Nat)} (h : Tiles hi lo rs) (hn : n < hi) :
    (rs.filter fun r => decide (r.1 ≤ n ∧ n < r.2)).length = if lo ≤ n then 1 else 0 := by
  induction rs generalizing lo with
  | nil =>
    obtain rfl : lo = hi := h
    rw [if_neg (by omega)]; rfl
  | cons r rs ih =>
    obtain ⟨rfl, hr, hrs⟩ := h
    rw [List.filter_cons, apply_ite List.length, List.length_cons, ih hrs]
    simp only [decide_eq_true_eq]
    split_ifs <;> omega

theorem readMap_tiles : Tiles 0x10000 0 (readMap.map fun r => (r.lo, r.hi)) := by
  simp [readMap, Tiles]

theorem writeMap_tiles : Tiles 0x10000 0 (writeMap.map fun r => (r.lo, r.hi)) := by
  simp [writeMap, Tiles]

theorem readMap_has_one (a : Addr) : (readMap.filter fun r => r.has a).length = 1 := by
  have h := readMap_tiles.length_filter a.isLt
  rwa [List.filter_map, List.length_map, if_pos (Nat.zero_le _)] at h

theorem writeMap_has_one (a : Addr) : (writeMap.filter fun r => r.has a).length = 1 := by
  have h := writeMap_tiles.length_filter a.isLt
  rwa [List.filter_map, List.length_map, if_pos (Nat.zero_le _)] at h

/-! ### The targets of the maps are those of the bands -/

/-- The target that a read band stands for in the table of R56. -/
def ReadTarget.ofBand : Band → ReadTarget
  | .rdRomx => .rom
  | .rdCvram => .cvram
  | .rdXram => .xram
  | .rdCwram => .cwram
  | .rdOpenbus => .openBus
  | _ => .gen

/-- The target that a write band stands for in the table of R57. -/
def WriteTarget.ofBand : Band → WriteTarget
  | .wrRamg => .ramEnable
  | .wrRomb => .romBank
  | .wrRtcsel | .wrRamb => .dualPurpose
  | .wrLatch => .nothing
  | .wrCvram => .cvram
  | .wrXram => .xram
  | .wrWramEchoUp => .genUpGen
  | .wrCwramEchoUp => .cwramGenUp
  | .wrCwramTop => .cwram
  | .wrEchoDown => .genDownGen
  | .wrEchoCwramDown => .cwramDownGen
  | _ => .gen

/-- A row of the read map names the decoder's bands. -/
theorem readMap_band {r : ReadMapRow} (hr : r ∈ readMap) (ha : r.has a = true) (cm : Bool) :
    (decodeRead cm a).band = if cm then r.colorBand else r.plainBand := by
  obtain ⟨hlo, hhi⟩ := of_decide_eq_true ha
  clear ha
  simp only [readMap, List.mem_cons, List.not_mem_nil, or_false] at hr
  rcases hr with rfl | rfl | rfl | rfl | rfl | rfl | rfl | rfl | rfl
  all_goals
    dsimp only at hlo hhi
    simp (disch := omega) only [decodeRead, inRange_of_mem, inRange_of_lt, inRange_of_ge, Bool.and_false, Bool.and_true,
      Bool.false_eq_true, if_true, if_false]
    cases cm <;> rfl

theorem readMap_target {r : ReadMapRow} (hr : r ∈ readMap) (cm : Bool) :
    ReadTarget.ofBand (if cm then r.colorBand else r.plainBand) = if cm then r.color else r.plain := by
  revert r cm; decide

/-- A row of the write map names the targets of the decoder's bands; the two bands of the dual-purpose port share one. -/
theorem writeMap_target {r : WriteMapRow} (hr : r ∈ writeMap) (ha : r.has a = true) (cm : Bool) (v : Byte) :
    WriteTarget.ofBand (decodeWrite cm a v).band = if cm then r.color else r.plain := by
  obtain ⟨hlo, hhi⟩ := of_decide_eq_true ha
  clear ha
  simp only [writeMap, List.cons_append, List.nil_append, List.mem_cons, List.not_mem_nil, or_false] at hr
  rcases hr with rfl | rfl | rfl | rfl | rfl | rfl | rfl | rfl | rfl | rfl | rfl | rfl | rfl | rfl
  all_goals
    dsimp only at hlo hhi
    simp (disch := omega) only [decodeWrite, inRange_of_mem, inRange_of_lt, inRange_of_ge, Bool.and_false, Bool.and_true,
      Bool.false_eq_true, if_true, if_false]
    cases cm <;> cases selectsClock v <;> rfl

/-! ### The external-RAM window, by the numbers of R59 -/

/-- The record of a read of the window: the byte of the selected bank, or `0x00` with a diagnostic (R103). -/
def Block.xramRecord (b : Block) (a : Addr) : StepRecord :=
  { data := some (if b.ramEnabled then
      Memory.read b.ramBanks ((a.toNat - 0xA000) + 0x2000 * b.currentRamBank.toNat) else 0x00)
    calls := []
    diag := if b.ramEnabled then .none else .xramRdDisabled }

theorem exec_rdXram (h1 : 0xA000 ≤ a.toNat) (h2 : a.toNat < 0xC000) :
    exec (.rdXram a) s = .next { s with out := s.block.xramRecord a } := by
  rw [Block.xramRecord, ← xramIndex_toNat h1 h2]
  cases he : s.block.ramEnabled
  · exact execRdXram_disabled a he
  · exact execRdXram_enabled a he

/-- A write of the window calls nothing, and is diagnosed when RAM is disabled (R142). -/
theorem exec_wrXram_out (h : exec (.wrXram a v) s = .next t) :
    t.out = { StepRecord.empty with diag := if s.block.ramEnabled then .none else .xramWrDisabled } := by
  cases he : s.block.ramEnabled
  · cases (execWrXram_disabled a v he).symm.trans h; rfl
  · cases (execWrXram_enabled a v he).symm.trans h; rfl

/-! ### What the targets say of a meaning -/

/-- The byte of a target does not depend on the operations still to come. -/
theorem ReadTarget.byte_afterFetch (g : ReadTarget) : g.byte (s.afterFetch rest) a = g.byte s a := by
  cases g <;> rfl

/-- The read map's own arithmetic for the ROM window gives the model's offset (R59). -/
theorem romOffset_eq_ofNat (n : BitVec 7) (h1 : 0x4000 ≤ a.toNat) (h2 : a.toNat < 0x8000) :
    BitVec.ofNat 21 ((a.toNat - 0x4000) + 0x4000 * n.toNat) = romOffset a n := by
  rw [← romOffset_toNat h1 h2, BitVec.ofNat_toNat, BitVec.setWidth_eq]

/-- The pattern of R105, from the low digit of the address and the row. -/
theorem openBusByte_eq_digits (h : 0xFEA0 ≤ a.toNat) :
    openBusByte a = if (a.toNat % 16 + (a.toNat / 16 - 0xFEA)) / 4 % 2 = 1 then 0x00 else 0xFF := by
  have hbit : (a.toNat + (a.toNat / 16 - 0xFEA)) / 4 % 2 = (a.toNat % 16 + (a.toNat / 16 - 0xFEA)) / 4 % 2 := by omega
  rw [openBusByte_eq, openBusRow_eq h, hbit]

/-- A read makes the calls of its band's target and returns the target's byte. -/
theorem exec_read_target (hop : i.operation = .read a) (hwf : i.wellFormed s.block.isColorMode = true)
    (h : exec i s = .next t) :
    t.out.calls = (ReadTarget.ofBand i.band).calls s.block a ∧
      t.out.data = some ((ReadTarget.ofBand i.band).byte s a) := by
  cases i <;> cases hop
  case rdRomx =>
    obtain ⟨h1, h2⟩ := of_decide_eq_true hwf
    cases h
    simp only [ReadTarget.ofBand, Instr.band, ReadTarget.calls, ReadTarget.byte, romOffset_eq_ofNat _ h1 h2]
    exact ⟨State.readRom_calls s.startRecord _, State.readRom_data s.startRecord _⟩
  case rdXram =>
    obtain ⟨h1, h2⟩ := of_decide_eq_true hwf
    cases (exec_rdXram h1 h2).symm.trans h
    exact ⟨rfl, rfl⟩
  case rdOpenbus =>
    obtain ⟨-, h1, -⟩ : _ ∧ 0xFEA0 ≤ a.toNat ∧ _ := by simpa [Instr.wellFormed] using hwf
    cases h
    exact ⟨rfl, congrArg some (openBusByte_eq_digits h1)⟩
  all_goals cases h; exact ⟨rfl, rfl⟩

/-- A write makes the calls of its band's target. -/
theorem exec_write_calls (hop : i.operation = .write a v) (h : exec i s = .next t) :
    t.out.calls = (WriteTarget.ofBand i.band).calls a v := by
  cases i <;> cases hop
  case wrXram => rw [exec_wrXram_out h]; rfl
  all_goals cases h; rfl

/-- The number that a write of the ROM-bank port stores (R122). -/
theorem romBankOf_eq_ofNat (v : Byte) : romBankOf v = BitVec.ofNat 7 (max 1 (v.toNat % 128)) := by
  rw [← romBankOf_toNat, BitVec.ofNat_toNat, BitVec.setWidth_eq]

/-- The number that a write of the RAM-bank port stores (R124). -/
theorem ramBankOf_eq_ofNat (v : Byte) : ramBankOf v = BitVec.ofNat 2 (v.toNat % 4) := by
  rw [← ramBankOf_toNat, BitVec.ofNat_toNat, BitVec.setWidth_eq]

/-- A row of the write map says what a write in its range does to the block. -/
theorem writeMap_block {r : WriteMapRow} (hr : r ∈ writeMap) (ha : r.has a = true) :
    b.afterWrite ses a v = (if b.isColorMode then r.color else r.plain).block ses.hasRam b a v := by
  obtain ⟨hlo, hhi⟩ := of_decide_eq_true ha
  clear ha
  simp only [writeMap, List.cons_append, List.nil_append, List.mem_cons, List.not_mem_nil, or_false] at hr
  rcases hr with rfl | rfl | rfl | rfl | rfl | rfl | rfl | rfl | rfl | rfl | rfl | rfl | rfl | rfl
  all_goals dsimp only at hlo hhi
  · rw [Block.afterWrite_ramEnablePort _ _ v hhi, ramEnabledAfter_eq, ite_self]; rfl
  · rw [Block.afterWrite_romBankPort _ _ v hlo hhi, romBankOf_eq_ofNat, ite_self]; rfl
  · rw [Block.afterWrite_ramBankPort _ _ v hlo hhi, ramBankOf_eq_ofNat, ite_self]
    simp only [WriteTarget.block, selectsClock_iff]
  on_goal 3 => -- the row of the external-RAM window
    rw [Block.afterWrite_xramWindow _ _ v hlo hhi, xramIndex_toNat hlo hhi, ite_self]; rfl
  all_goals
    rw [Block.afterWrite_elsewhere _ _ v (by omega) (by omega)]
    cases b.isColorMode <;> rfl

/-! ### The step of a read and of a write -/

theorem step_read (hr : s.phase = .running) (hp : s.pending = .read a :: rest) :
    step s = exec (decodeRead s.block.isColorMode a) (s.afterFetch rest) := by
  rw [step_operation hp (State.admits_running hr _), decodeOperation_read]

theorem step_write (hr : s.phase = .running) (hp : s.pending = .write a v :: rest) :
    step s = exec (decodeWrite s.block.isColorMode a v) (s.afterFetch rest) := by
  rw [step_operation hp (State.admits_running hr _), decodeOperation_write]

/-- Settles O24: the rows tile the address space, a row names the decoder's band, and a band's target says the rest. -/
theorem readMapHoldsForEveryAddress : Obligations.ReadMapHoldsForEveryAddress := by
  refine fun a => ⟨readMap_has_one a, fun r s rest hr ha hrun hp => ?_⟩
  obtain ⟨t, ht⟩ := exec_next (decodeRead s.block.isColorMode a) (s.afterFetch rest)
  have hband := readMap_band hr ha s.block.isColorMode
  obtain ⟨hcalls, hdata⟩ := exec_read_target (s := s.afterFetch rest) (decodeRead_operation s.block.isColorMode a)
    (decodeRead_wellFormed _ a) ht
  rw [hband, readMap_target hr] at hcalls hdata
  rw [ReadTarget.byte_afterFetch] at hdata
  exact ⟨by rw [decodeOperation_read, hband], t, (step_read hrun hp).trans ht, hcalls, hdata⟩

/-- Settles O36: the rows tile the address space, and a row names the target of the decoder's band. -/
theorem writeMapHoldsForEveryAddress : Obligations.WriteMapHoldsForEveryAddress := by
  refine fun a => ⟨writeMap_has_one a, fun r s v rest hr ha hrun hp => ?_⟩
  obtain ⟨t, ht⟩ := exec_next (decodeWrite s.block.isColorMode a v) (s.afterFetch rest)
  have hcalls := exec_write_calls (decodeWrite_operation _ a v) ht
  rw [writeMap_target hr ha] at hcalls
  exact ⟨t, (step_write hrun hp).trans ht, hcalls, (exec_write_block ht).trans (writeMap_block hr ha)⟩

/-! ### The same operation twice (R54, R55) -/

/-- Under a block and a session the meaning is to record `r`: nothing else changes, and no answer is taken. -/
def Instr.OnlyRecords (i : Instr) (b : Block) (ses : Session) (r : StepRecord) : Prop :=
  ∀ s : State, s.block = b → s.session = ses → exec i s = .next { s with out := r }

theorem rdXram_onlyRecords (h1 : 0xA000 ≤ a.toNat) (h2 : a.toNat < 0xC000) :
    Instr.OnlyRecords (.rdXram a) b ses (b.xramRecord a) := by
  rintro s rfl -
  exact exec_rdXram h1 h2

theorem rdOpenbus_onlyRecords (a : Addr) :
    Instr.OnlyRecords (.rdOpenbus a) b ses { StepRecord.empty with data := some (openBusByte a) } :=
  fun _ _ _ => rfl

/-- A read inside the ROM's size: the store is constant there (R54). -/
theorem rdRomx_onlyRecords (h : (romOffset a b.currentRomBank).toNat < ses.romSize) :
    Instr.OnlyRecords (.rdRomx a) b ses
      { data := some (Config.romByte (romOffset a b.currentRomBank))
        calls := [.romReadByte (romOffset a b.currentRomBank)]
        diag := .none } := by
  rintro s rfl rfl
  exact congrArg Host.Outcome.next (State.readRom_inside s.startRecord h)

/-- A read that only records does the same again. -/
theorem step_twice_of_onlyRecords {r : StepRecord} (hr : s.phase = .running)
    (hp : s.pending = .read a :: .read a :: rest)
    (h : Instr.OnlyRecords (decodeRead s.block.isColorMode a) s.block s.session r) :
    ∃ t u, step s = .next t ∧ step t = .next u ∧ u.out = t.out ∧ u.answers = s.answers ∧ u.draws = s.draws := by
  have ht := (step_read hr hp).trans (h (s.afterFetch _) rfl rfl)
  have hu := (step_read (s := { s.afterFetch (.read a :: rest) with out := r }) hr rfl).trans
    (h (State.afterFetch rest _) rfl rfl)
  exact ⟨_, _, ht, hu, rfl, rfl, rfl⟩

/-- Settles O23: each of the three reads only records, by the block and the session. -/
theorem ownReadsAreIdempotent : Obligations.OwnReadsAreIdempotent := by
  rintro s a rest hr hp (⟨h1, h2⟩ | ⟨hcm, h1, h2⟩ | ⟨h1, h2, hrom⟩)
  · refine step_twice_of_onlyRecords hr hp (r := s.block.xramRecord a) ?_
    rw [decodeRead_xramWindow _ h1 h2]
    exact rdXram_onlyRecords h1 h2
  · refine step_twice_of_onlyRecords hr hp (r := { StepRecord.empty with data := some (openBusByte a) }) ?_
    rw [hcm, decodeRead_openBus h1 h2]
    exact rdOpenbus_onlyRecords a
  · rw [← romOffset_toNat h1 h2] at hrom
    have honly := rdRomx_onlyRecords hrom
    rw [← decodeRead_romWindow s.block.isColorMode h1 h2] at honly
    exact step_twice_of_onlyRecords hr hp honly

theorem ramEnabledAfter_idem (hasRam old : Bool) (v : Byte) :
    ramEnabledAfter hasRam (ramEnabledAfter hasRam old v) v = ramEnabledAfter hasRam old v := by
  cases hasRam <;> rfl

/-- The same write again leaves the block as it is: each port stores a value that does not depend on what it held, and the
byte store has its canonical form (R55). -/
theorem Block.afterWrite_idem (hwf : Memory.wf b.ramBanks = true) (ses : Session) (a : Addr) (v : Byte) :
    (b.afterWrite ses a v).afterWrite ses a v = b.afterWrite ses a v := by
  have hrange : a.toNat < 0x2000 ∨ (0x2000 ≤ a.toNat ∧ a.toNat < 0x4000) ∨ (0x4000 ≤ a.toNat ∧ a.toNat < 0x6000) ∨
      (0xA000 ≤ a.toNat ∧ a.toNat < 0xC000) ∨ (0x6000 ≤ a.toNat ∧ (a.toNat < 0xA000 ∨ 0xC000 ≤ a.toNat)) := by omega
  rcases hrange with h | ⟨h1, h2⟩ | ⟨h1, h2⟩ | ⟨h1, h2⟩ | ⟨h1, h2⟩
  · simp only [Block.afterWrite_ramEnablePort _ _ v h, ramEnabledAfter_idem]
  · simp only [Block.afterWrite_romBankPort _ _ v h1 h2]
  · simp only [Block.afterWrite_ramBankPort _ _ v h1 h2]
    cases selectsClock v <;> rfl
  · simp only [Block.afterWrite_xramWindow _ _ v h1 h2]
    cases b.ramEnabled
    · rfl
    · simp only [if_true, Memory.write_write hwf (xramIndex a b.currentRamBank).isLt]
  · simp only [Block.afterWrite_elsewhere _ _ v h1 h2]

/-- Settles O31: both steps do to the block what their write says, and the second changes nothing. -/
theorem ownWritesAreIdempotent : Obligations.OwnWritesAreIdempotent := by
  intro s a v rest hr hwf hp _
  obtain ⟨t, ht, hphase, hsession, hpending, hblock⟩ := step_admitted hp (State.admits_running hr _)
  obtain ⟨u, hu, -, -, -, hblock'⟩ := step_admitted hpending (State.admits_running hphase _)
  refine ⟨t, u, ht, hu, ?_⟩
  rw [hblock', hblock, hsession]
  exact Block.afterWrite_idem hwf _ a v

/-! ### The echo (R67) -/

/-- A store of a byte at two addresses holds it at both and is the old store elsewhere. -/
theorem genericAfter_two_writes (g : Addr → Byte) (a b : Addr) (v : Byte) (x : Addr) :
    genericAfter g [.medWrite (.generic a v), .medWrite (.generic b v)] x = if x = a ∨ x = b then v else g x := by
  simp only [genericAfter]
  split_ifs <;> simp_all

/-- Settles O37: the band mirrors up, and neither address is redirected on a read. -/
theorem echoKeepsBothCopiesEqual : Obligations.EchoKeepsBothCopiesEqual := by
  intro s a v rest g hr hp h1 h2 hmode
  have hup : (a + 0x2000).toNat = a.toNat + 0x2000 := mirrorUp_toNat (by omega)
  have ht := step_write hr hp
  rw [decodeWrite_wramEchoUp _ v h1 h2 hmode] at ht
  refine ⟨_, ht, ?_, ?_, fun x hx hx' => ?_, ?_, ?_⟩
  · exact (genericAfter_two_writes g (a + 0x2000) a v a).trans (if_pos (.inr rfl))
  · exact (genericAfter_two_writes g (a + 0x2000) a v (a + 0x2000)).trans (if_pos (.inl rfl))
  · exact (genericAfter_two_writes g (a + 0x2000) a v x).trans (if_neg (not_or.mpr ⟨hx', hx⟩))
  · rw [decodeOperation_read, decodeRead_workRam _ h1 (by omega) (hmode.imp_right .inl)]
  · rw [decodeOperation_read, decodeRead_workRam _ (by omega) (by omega) (.inr (.inr (by omega)))]

/-! ### An access after a control write (R61) -/

/-- The step of a read of the ROM window. -/
theorem step_read_romWindow (hr : s.phase = .running) (hp : s.pending = .read a :: rest)
    (h1 : 0x4000 ≤ a.toNat) (h2 : a.toNat < 0x8000) :
    ∃ t, step s = .next t ∧ t.out.calls = [.romReadByte (romOffset a s.block.currentRomBank)] := by
  rw [step_read hr hp, decodeRead_romWindow _ h1 h2]
  exact ⟨_, rfl, State.readRom_calls _ _⟩

/-- The step of a read of the external-RAM window. -/
theorem step_read_xramWindow (hr : s.phase = .running) (hp : s.pending = .read a :: rest)
    (h1 : 0xA000 ≤ a.toNat) (h2 : a.toNat < 0xC000) : ∃ t, step s = .next t ∧ t.out = s.block.xramRecord a := by
  rw [step_read hr hp, decodeRead_xramWindow _ h1 h2, exec_rdXram h1 h2]
  exact ⟨_, rfl, rfl⟩

/-- The step of a write of the external-RAM window. -/
theorem step_write_xramWindow (hr : s.phase = .running) (hp : s.pending = .write a v :: rest)
    (h1 : 0xA000 ≤ a.toNat) (h2 : a.toNat < 0xC000) :
    ∃ t, step s = .next t ∧
      t.block.ramBanks = (if s.block.ramEnabled then
          Memory.write s.block.ramBanks ((a.toNat - 0xA000) + 0x2000 * s.block.currentRamBank.toNat) v
        else s.block.ramBanks) ∧
      t.out.diag = if s.block.ramEnabled then .none else .xramWrDisabled := by
  obtain ⟨t, ht⟩ := exec_next (.wrXram a v) (s.afterFetch rest)
  refine ⟨t, ?_, ?_, ?_⟩
  · rw [step_write hr hp, decodeWrite_xramWindow _ v h1 h2, ht]
  · rw [exec_wrXram_block ht, ← xramIndex_toNat h1 h2, apply_ite Block.ramBanks]; rfl
  · rw [exec_wrXram_out ht]; rfl

/-- The latch that a write of the RAM-enable port leaves. -/
theorem State.latchAfter_eq (s : State) (v : Byte) :
    s.latchAfter v = ramEnabledAfter s.session.hasRam s.block.ramEnabled v :=
  (ramEnabledAfter_eq _ _ v).symm

/-- Settles O46: the first step leaves the register, and the second is by the block that the first one left. -/
theorem bankSwitchIsInForceForTheNextRead : Obligations.BankSwitchIsInForceForTheNextRead := by
  intro s a b v w op rest hr hp
  obtain ⟨t, ht, hphase, -, hpending, hblock⟩ := step_admitted hp (State.admits_running hr _)
  rw [Block.after] at hblock
  refine ⟨?_, ?_, ?_⟩
  · rintro ha1 ha2 rfl hb1 hb2
    rw [Block.afterWrite_romBankPort _ _ v ha1 ha2] at hblock
    obtain ⟨u, hu, hcalls⟩ := step_read_romWindow hphase hpending hb1 hb2
    rw [hblock] at hcalls
    exact ⟨t, u, _, ht, hu, by rw [romOffset_toNat hb1 hb2, romBankOf_toNat], hcalls⟩
  · intro ha1 ha2 hv hb1 hb2 hen hop
    have hclock : ¬ selectsClock v = true := by rw [selectsClock_iff]; omega
    rw [Block.afterWrite_ramBankPort _ _ v ha1 ha2, if_neg hclock] at hblock
    obtain rfl | rfl := hop
    · obtain ⟨u, hu, hout⟩ := step_read_xramWindow hphase hpending hb1 hb2
      refine ⟨t, u, ht, hu, ?_, fun _ => ?_, nofun⟩
      · simp [hout, Block.xramRecord, hblock, hen]
      · simp [hout, Block.xramRecord, hblock, hen, ramBankOf_toNat]
    · obtain ⟨u, hu, hbytes, hdiag⟩ := step_write_xramWindow hphase hpending hb1 hb2
      refine ⟨t, u, ht, hu, ?_, nofun, fun _ => ?_⟩
      · simp [hdiag, hblock, hen]
      · simp [hbytes, hblock, hen, ramBankOf_toNat]
  · intro ha hb1 hb2 hop
    rw [Block.afterWrite_ramEnablePort _ _ v ha, ← State.latchAfter_eq] at hblock
    obtain rfl | rfl := hop
    · obtain ⟨u, hu, hout⟩ := step_read_xramWindow hphase hpending hb1 hb2
      rw [hblock] at hout
      exact ⟨t, u, ht, hu, fun _ => ⟨by rw [hout]; rfl, by rw [hout]; rfl⟩, nofun⟩
    · obtain ⟨u, hu, hbytes, hdiag⟩ := step_write_xramWindow hphase hpending hb1 hb2
      rw [hblock] at hbytes hdiag
      exact ⟨t, u, ht, hu, nofun, fun _ => ⟨hbytes, hdiag⟩⟩

/-! ### A byte of external RAM along a run (R66) -/

/-- A run of one step more begins with a step. -/
theorem runSteps_succ_cases {k : Nat} (h : runSteps (k + 1) s = .next t) :
    ∃ u, step s = .next u ∧ runSteps k u = .next t := by
  cases hs : step s with
  | next u => exact ⟨u, rfl, by rwa [runSteps_succ k hs] at h⟩
  | fault f => cases f
  | refused r =>
    have hcore : Sys2Proof.core.step s = .refused r := hs
    simp [runSteps, Host.Core.run, hcore] at h

theorem step_phase_running (hr : s.phase = .running) (h : step s = .next t) : t.phase = .running := by
  obtain ⟨-, hnext, -⟩ := everyOperationHasANextState
  obtain ⟨u, hu, hphase⟩ := hnext s hr
  cases hu.symm.trans h
  exact hphase

theorem step_pending (h : step s = .next t) : t.pending = s.pending.tail := by
  obtain ⟨hp, rfl⟩ | ⟨op, rest, hp, -, he⟩ := step_cases h
  · rw [hp]; exact hp
  · rw [hp, exec_pending he]; rfl

/-- A run takes its operations from the head of the queue, and none of them takes the lifecycle back. -/
theorem runSteps_running {k : Nat} (hr : s.phase = .running) (h : runSteps k s = .next t) :
    t.phase = .running ∧ t.pending = s.pending.drop k := by
  induction k generalizing s with
  | zero => cases h; exact ⟨hr, rfl⟩
  | succ k ih =>
    obtain ⟨u, hu, h⟩ := runSteps_succ_cases h
    obtain ⟨hphase, hpending⟩ := ih (step_phase_running hr hu) h
    exact ⟨hphase, by rw [hpending, step_pending hu, List.drop_tail]⟩

/-- A byte that no step of a run writes is the same after the run (R21). -/
theorem runSteps_xramByte {k : Nat} {j : XramIndex} (h : runSteps k s = .next t)
    (hw : ∀ n < k, ∀ u, runSteps n s = .next u → ¬ u.WritesByte j) : t.xramByte j = s.xramByte j := by
  induction k generalizing s with
  | zero => cases h; rfl
  | succ k ih =>
    obtain ⟨u, hu, h⟩ := runSteps_succ_cases h
    have hstep : u.xramByte j = s.xramByte j := by
      by_contra hne
      exact hw 0 (Nat.succ_pos k) s (runSteps_zero s) (bytesChangeOnlyByStoreOrReset s u j hu hne)
    rw [← hstep]
    exact ih h fun n hn x hx => hw (n + 1) (Nat.succ_lt_succ hn) x ((runSteps_succ n hu).trans hx)

/-- Settles O51: the write stores the byte, no step of the run between changes it, and the read finds its bank selected. -/
theorem externalRamRoundTrip : Obligations.ExternalRamRoundTrip := by
  intro s s1 t a v mid hr hwf hen h1 h2 hfirst hmid hrun hbank
  have hr' : ({ s with pending := .write a v :: (mid ++ [.read a]) } : State).phase = .running := hr
  obtain ⟨s1', hs1, hphase1, -, hpending1, hblock1⟩ := step_admitted rfl (State.admits_running hr' (.write a v))
  cases hs1.symm.trans hfirst
  have hstored : s1.xramByte (s.xramIndexOf a) = v := by
    rw [State.xramByte, hblock1, Block.after, Block.afterWrite_xramWindow _ _ v h1 h2, if_pos hen]
    exact Memory.read_write_same hwf
  have hkept : t.xramByte (s.xramIndexOf a) = v := (runSteps_xramByte hrun hmid).trans hstored
  obtain ⟨hphase, hpending⟩ := runSteps_running hphase1 hrun
  rw [hpending1, List.drop_left] at hpending
  obtain ⟨r, hstep, hout⟩ := step_read_xramWindow hphase hpending h1 h2
  rw [State.xramByte, State.xramIndexOf, xramIndex_toNat h1 h2] at hkept
  refine ⟨r, hstep, fun he => ?_, fun he => ?_⟩
  · rw [hout, Block.xramRecord, hbank, he, if_pos rfl, hkept]
  · rw [hout, Block.xramRecord, he]; rfl

end Sys2Proof.Machine

/-! # Proofs of the encoding family (spec/30_encoding.md)

The remaining bands of the decoder, one equation each; the decoder against the tables of disjoint ranges, which settles the
round trip of decode and encode and the reach of the mode bit; the fields of a key; and the decode table of R84. -/

namespace Sys2Proof

/-! ### The remaining bands of reads and writes -/

section
variable {cm : Bool} {a : Addr}

/-- Video RAM in color mode (R102). -/
theorem decodeRead_cvram (h1 : 0x8000 ≤ a.toNat) (h2 : a.toNat < 0xA000) : decodeRead true a = .rdCvram a := by
  simp (disch := omega) only [decodeRead, inRange_of_ge, inRange_of_mem, Bool.and_self, Bool.false_eq_true, if_true,
    if_false]

/-- Switchable work RAM in color mode (R104). -/
theorem decodeRead_cwram (h1 : 0xD000 ≤ a.toNat) (h2 : a.toNat < 0xE000) : decodeRead true a = .rdCwram a := by
  simp (disch := omega) only [decodeRead, inRange_of_ge, inRange_of_mem, Bool.and_self, Bool.and_false,
    Bool.false_eq_true, if_true, if_false]

/-- The unmapped region in color mode (R106). -/
theorem decodeRead_unusedFwd (h1 : 0xFEA0 ≤ a.toNat) (h2 : a.toNat < 0xFF00) : decodeRead true a = .rdUnusedFwd a := by
  simp (disch := omega) only [decodeRead, inRange_of_ge, inRange_of_mem, Bool.and_false, Bool.false_eq_true, if_true,
    if_false]

/-- The default read (R107). -/
theorem decodeRead_gen (h : (Instr.rdGen a).wellFormed cm = true) : decodeRead cm a = .rdGen a := by
  simp only [Instr.wellFormed, Bool.or_eq_true, Bool.and_eq_true, Bool.not_eq_true', decide_eq_true_eq] at h
  rcases h with (h | ⟨h1, h2⟩ | ⟨h1, h2⟩ | h) | ⟨rfl, ⟨h1, h2⟩ | ⟨h1, h2⟩⟩
  all_goals
    simp (disch := omega) only [decodeRead, inRange_of_lt, inRange_of_ge, Bool.and_false, Bool.false_and,
      Bool.false_eq_true, if_false]

variable (v : Byte)

/-- Video RAM in color mode (R141). -/
theorem decodeWrite_cvram (h1 : 0x8000 ≤ a.toNat) (h2 : a.toNat < 0xA000) : decodeWrite true a v = .wrCvram a v := by
  simp (disch := omega) only [decodeWrite, inRange_of_ge, inRange_of_mem, Bool.and_self, Bool.false_eq_true, if_true,
    if_false]

/-- Switchable work RAM in color mode, with its echo copy (R144). -/
theorem decodeWrite_cwramEchoUp (h1 : 0xD000 ≤ a.toNat) (h2 : a.toNat < 0xDE00) :
    decodeWrite true a v = .wrCwramEchoUp a v := by
  simp (disch := omega) only [decodeWrite, inRange_of_ge, inRange_of_mem, Bool.and_self, Bool.and_false,
    Bool.false_eq_true, if_true, if_false]

/-- The top of work RAM in color mode (R145). -/
theorem decodeWrite_cwramTop (h1 : 0xDE00 ≤ a.toNat) (h2 : a.toNat < 0xE000) :
    decodeWrite true a v = .wrCwramTop a v := by
  simp (disch := omega) only [decodeWrite, inRange_of_ge, inRange_of_mem, Bool.and_self, Bool.and_false,
    Bool.false_eq_true, if_true, if_false]

/-- The echo window, but for its upper part in color mode (R146). -/
theorem decodeWrite_echoDown (h1 : 0xE000 ≤ a.toNat) (h2 : a.toNat < 0xFE00) (h : cm = false ∨ a.toNat < 0xF000) :
    decodeWrite cm a v = .wrEchoDown a v := by
  have hupper : (cm && inRange 0xF000 0xFE00 a) = false := by
    obtain rfl | h := h
    · exact Bool.false_and _
    · rw [inRange_of_lt h, Bool.and_false]
  simp (disch := omega) only [decodeWrite, hupper, inRange_of_ge, inRange_of_mem, Bool.and_false, Bool.false_eq_true,
    if_true, if_false]

/-- The upper echo window in color mode (R147). -/
theorem decodeWrite_echoCwramDown (h1 : 0xF000 ≤ a.toNat) (h2 : a.toNat < 0xFE00) :
    decodeWrite true a v = .wrEchoCwramDown a v := by
  simp (disch := omega) only [decodeWrite, inRange_of_ge, inRange_of_mem, Bool.and_self, Bool.and_false,
    Bool.false_eq_true, if_true, if_false]

/-- The unmapped region (R148). -/
theorem decodeWrite_unused (h1 : 0xFEA0 ≤ a.toNat) (h2 : a.toNat < 0xFF00) : decodeWrite cm a v = .wrUnused a v := by
  simp (disch := omega) only [decodeWrite, inRange_of_ge, inRange_of_mem, Bool.and_false, Bool.false_eq_true, if_true,
    if_false]

/-- The default write (R149). -/
theorem decodeWrite_gen (h : (Instr.wrGen a v).wellFormed cm = true) : decodeWrite cm a v = .wrGen a v := by
  simp only [Instr.wellFormed, Bool.or_eq_true, Bool.and_eq_true, Bool.not_eq_true', decide_eq_true_eq] at h
  rcases h with (⟨h1, h2⟩ | h) | ⟨rfl, ⟨h1, h2⟩ | ⟨h1, h2⟩⟩
  all_goals
    simp (disch := omega) only [decodeWrite, inRange_of_lt, inRange_of_ge, Bool.and_false, Bool.false_and,
      Bool.false_eq_true, if_false]

end

/-- The port and the values of the clock (R123). -/
theorem decodeWrite_rtcsel (cm : Bool) {a : Addr} {v : Byte} (h1 : 0x4000 ≤ a.toNat) (h2 : a.toNat < 0x6000)
    (hv : 0x08 ≤ v.toNat ∧ v.toNat ≤ 0x0C) : decodeWrite cm a v = .wrRtcsel a v := by
  rw [decodeWrite_ramBankPort cm v h1 h2, if_pos ((selectsClock_iff v).mpr hv)]

/-- The same port with any other value (R124). -/
theorem decodeWrite_ramb (cm : Bool) {a : Addr} {v : Byte} (h1 : 0x4000 ≤ a.toNat) (h2 : a.toNat < 0x6000)
    (hv : v.toNat < 0x08 ∨ 0x0C < v.toNat) : decodeWrite cm a v = .wrRamb a v := by
  rw [decodeWrite_ramBankPort cm v h1 h2, if_neg (by rw [selectsClock_iff]; omega)]

/-! ### The decoder yields exactly what the tables of disjoint ranges admit (R82, R83) -/

/-- A band that the tables admit is the first match of its own operation. -/
theorem decodeOperation_of_wellFormed {cm : Bool} {i : Instr} (h : i.wellFormed cm = true) :
    decodeOperation cm i.operation = i := by
  cases i
  all_goals simp only [Instr.operation, decodeOperation_read, decodeOperation_write]
  case rdGen a => exact decodeRead_gen h
  case wrGen a v => exact decodeWrite_gen v h
  case reset c => rfl
  all_goals
    simp only [Instr.wellFormed, Bool.or_eq_true, Bool.and_eq_true, Bool.not_eq_true', decide_eq_true_eq] at h
  case rdRomx a => exact decodeRead_romWindow cm h.1 h.2
  case rdCvram a => obtain ⟨rfl, h1, h2⟩ := h; exact decodeRead_cvram h1 h2
  case rdXram a => exact decodeRead_xramWindow cm h.1 h.2
  case rdCwram a => obtain ⟨rfl, h1, h2⟩ := h; exact decodeRead_cwram h1 h2
  case rdOpenbus a => obtain ⟨rfl, h1, h2⟩ := h; exact decodeRead_openBus h1 h2
  case rdUnusedFwd a => obtain ⟨rfl, h1, h2⟩ := h; exact decodeRead_unusedFwd h1 h2
  case wrRamg a v => exact decodeWrite_ramEnablePort cm v h
  case wrRomb a v => exact decodeWrite_romBankPort cm v h.1 h.2
  case wrRtcsel a v => obtain ⟨⟨h1, h2⟩, hv⟩ := h; exact decodeWrite_rtcsel cm h1 h2 hv
  case wrRamb a v => obtain ⟨⟨h1, h2⟩, hv⟩ := h; exact decodeWrite_ramb cm h1 h2 hv
  case wrLatch a v => exact decodeWrite_latchPort cm v h.1 h.2
  case wrCvram a v => obtain ⟨rfl, h1, h2⟩ := h; exact decodeWrite_cvram v h1 h2
  case wrXram a v => exact decodeWrite_xramWindow cm v h.1 h.2
  case wrWramEchoUp a v =>
    obtain ⟨h1, h2⟩ | ⟨rfl, h1, h2⟩ := h
    · exact decodeWrite_wramEchoUp cm v h1 (by omega) (.inr h2)
    · exact decodeWrite_wramEchoUp false v (by omega) h2 (.inl rfl)
  case wrCwramEchoUp a v => obtain ⟨rfl, h1, h2⟩ := h; exact decodeWrite_cwramEchoUp v h1 h2
  case wrCwramTop a v => obtain ⟨rfl, h1, h2⟩ := h; exact decodeWrite_cwramTop v h1 h2
  case wrEchoDown a v =>
    obtain ⟨h1, h2⟩ | ⟨rfl, h1, h2⟩ := h
    · exact decodeWrite_echoDown v h1 (by omega) (.inr h2)
    · exact decodeWrite_echoDown v (by omega) h2 (.inl rfl)
  case wrEchoCwramDown a v => obtain ⟨rfl, h1, h2⟩ := h; exact decodeWrite_echoCwramDown v h1 h2
  case wrUnused a v => exact decodeWrite_unused v h.1 h.2

/-- For every write the table has an entry: its rows, in the order of their addresses, leave no gap (R83, R86). -/
theorem exists_wellFormed_write (cm : Bool) (a : Addr) (v : Byte) :
    ∃ i : Instr, i.operation = .write a v ∧ i.wellFormed cm = true := by
  have hrange : a.toNat < 0x2000 ∨ (0x2000 ≤ a.toNat ∧ a.toNat < 0x4000) ∨ (0x4000 ≤ a.toNat ∧ a.toNat < 0x6000) ∨
      (0x6000 ≤ a.toNat ∧ a.toNat < 0x8000) ∨ (0x8000 ≤ a.toNat ∧ a.toNat < 0xA000) ∨
      (0xA000 ≤ a.toNat ∧ a.toNat < 0xC000) ∨ (0xC000 ≤ a.toNat ∧ a.toNat < 0xD000) ∨
      (0xD000 ≤ a.toNat ∧ a.toNat < 0xDE00) ∨ (0xDE00 ≤ a.toNat ∧ a.toNat < 0xE000) ∨
      (0xE000 ≤ a.toNat ∧ a.toNat < 0xF000) ∨ (0xF000 ≤ a.toNat ∧ a.toNat < 0xFE00) ∨
      (0xFEA0 ≤ a.toNat ∧ a.toNat < 0xFF00) ∨ (0xFE00 ≤ a.toNat ∧ a.toNat < 0xFEA0) ∨ 0xFF00 ≤ a.toNat := by
    omega
  rcases hrange with h | h | h | h | h | h | h | h | h | h | h | h | h
  · exact ⟨.wrRamg a v, rfl, by simpa [Instr.wellFormed] using h⟩
  · exact ⟨.wrRomb a v, rfl, by simpa [Instr.wellFormed] using h⟩
  · by_cases hv : 0x08 ≤ v.toNat ∧ v.toNat ≤ 0x0C
    · exact ⟨.wrRtcsel a v, rfl, by simpa [Instr.wellFormed, h] using hv⟩
    · exact ⟨.wrRamb a v, rfl, by simp [Instr.wellFormed, h]; omega⟩
  · exact ⟨.wrLatch a v, rfl, by simpa [Instr.wellFormed] using h⟩
  · cases cm
    · exact ⟨.wrGen a v, rfl, by simp [Instr.wellFormed, h]⟩
    · exact ⟨.wrCvram a v, rfl, by simpa [Instr.wellFormed] using h⟩
  · exact ⟨.wrXram a v, rfl, by simpa [Instr.wellFormed] using h⟩
  · exact ⟨.wrWramEchoUp a v, rfl, by simp [Instr.wellFormed, h]⟩
  · cases cm
    · exact ⟨.wrWramEchoUp a v, rfl, by simp [Instr.wellFormed, h]⟩
    · exact ⟨.wrCwramEchoUp a v, rfl, by simpa [Instr.wellFormed] using h⟩
  · cases cm
    · exact ⟨.wrGen a v, rfl, by simp [Instr.wellFormed, h]⟩
    · exact ⟨.wrCwramTop a v, rfl, by simpa [Instr.wellFormed] using h⟩
  · exact ⟨.wrEchoDown a v, rfl, by simp [Instr.wellFormed, h]⟩
  · cases cm
    · exact ⟨.wrEchoDown a v, rfl, by simp [Instr.wellFormed, h]⟩
    · exact ⟨.wrEchoCwramDown a v, rfl, by simpa [Instr.wellFormed] using h⟩
  · exact ⟨.wrUnused a v, rfl, by simpa [Instr.wellFormed] using h⟩
  · exact ⟨.wrGen a v, rfl, by simp [Instr.wellFormed, h]⟩

/-- Every operation decodes to a band that the tables admit. -/
theorem decodeOperation_wellFormed (cm : Bool) (op : Operation) : (decodeOperation cm op).wellFormed cm = true := by
  cases op with
  | read a => rw [decodeOperation_read, decodeRead_wellFormed]
  | write a v =>
    obtain ⟨i, hop, hwf⟩ := exists_wellFormed_write cm a v
    rw [← hop, decodeOperation_of_wellFormed hwf, hwf]
  | reset c => rfl

/-- Settles O3: what decodes to itself is the decoder's answer, and the tables admit every answer of the decoder. -/
theorem bandIsTheOneTheTablesAdmit : Obligations.BandIsTheOneTheTablesAdmit := by
  refine fun cm i => ⟨fun h => ?_, decodeOperation_of_wellFormed⟩
  rw [← h, decodeOperation_wellFormed]

/-- Settles O2: the bytes of an operation decode to its band, and a band that the tables admit is its operation's. -/
theorem decodeInvertsEncode : Obligations.DecodeInvertsEncode := by
  intro cm i h
  rw [encode, decode_bytes, decodeOperation_of_wellFormed h]

/-! ### Where the mode bit matters (R87) -/

/-- The two modes differ on an operation exactly when color mode's tables refuse its non-color band. -/
theorem modes_differ_iff (op : Operation) :
    decodeOperation true op ≠ decodeOperation false op ↔ (decodeOperation false op).wellFormed true = false := by
  have hagree := bandIsTheOneTheTablesAdmit true (decodeOperation false op)
  rw [decodeOperation_operation] at hagree
  rw [ne_eq, hagree, Bool.not_eq_true]

theorem plainRead_refused_iff (a : Addr) : (decodeOperation false (.read a)).wellFormed true = false ↔
    (0x8000 ≤ a.toNat ∧ a.toNat < 0xA000) ∨ (0xD000 ≤ a.toNat ∧ a.toNat < 0xE000) ∨
    (0xFEA0 ≤ a.toNat ∧ a.toNat < 0xFF00) := by
  simp only [decodeOperation_read, decodeRead, inRange_iff, Bool.false_and, Bool.false_eq_true, if_false]
  split_ifs <;> simp [Instr.wellFormed] <;> omega

theorem plainWrite_refused_iff (a : Addr) (v : Byte) :
    (decodeOperation false (.write a v)).wellFormed true = false ↔
    (0x8000 ≤ a.toNat ∧ a.toNat < 0xA000) ∨ (0xD000 ≤ a.toNat ∧ a.toNat < 0xE000) ∨
    (0xF000 ≤ a.toNat ∧ a.toNat < 0xFE00) := by
  simp only [decodeOperation_write, decodeWrite, inRange_iff, selectsClock_iff, Bool.false_and, Bool.false_eq_true,
    if_false]
  split_ifs <;> simp [Instr.wellFormed] <;> omega

/-- Settles O6: the modes differ where color mode's tables refuse the non-color band. -/
theorem modeBitMattersOnlyInSixRanges : Obligations.ModeBitMattersOnlyInSixRanges :=
  fun a v =>
    ⟨(modes_differ_iff _).trans (plainRead_refused_iff a), (modes_differ_iff _).trans (plainWrite_refused_iff a v)⟩

/-! ### The key as its fields, and back from bytes (R80) -/

section
variable (k : Key)

theorem Key.cm_toNat : k.cm.toNat = k.toNat / 2 ^ 25 % 2 := by
  obtain h | h := Nat.mod_two_eq_zero_or_one (k.toNat / 2 ^ 25) <;> rw [Key.cm, h] <;> rfl

theorem Key.wr_toNat : k.wr.toNat = k.toNat / 2 ^ 24 % 2 := by
  obtain h | h := Nat.mod_two_eq_zero_or_one (k.toNat / 2 ^ 24) <;> rw [Key.wr, h] <;> rfl

theorem Key.addr_toNat : k.addr.toNat = k.toNat / 2 ^ 8 % 2 ^ 16 := BitVec.toNat_ofNat _ _

theorem Key.data_toNat : k.data.toNat = k.toNat % 2 ^ 8 := BitVec.toNat_ofNat _ _

/-- A key is packed from its fields. -/
theorem Key.toNat_eq_fields :
    k.toNat = k.cm.toNat * 2 ^ 25 + k.wr.toNat * 2 ^ 24 + k.addr.toNat * 2 ^ 8 + k.data.toNat := by
  have := k.isLt
  rw [Key.cm_toNat, Key.wr_toNat, Key.addr_toNat, Key.data_toNat]
  omega

theorem Key.cm_eq_getLsbD : k.cm = k.getLsbD 25 := by
  rw [BitVec.getLsbD, Nat.testBit_eq_decide_div_mod_eq, cm]; rfl

theorem Key.wr_eq_getLsbD : k.wr = k.getLsbD 24 := by
  rw [BitVec.getLsbD, Nat.testBit_eq_decide_div_mod_eq, wr]; rfl

theorem Key.addr_eq_extractLsb' : k.addr = k.extractLsb' 8 16 := by
  rw [BitVec.extractLsb', Nat.shiftRight_eq_div_pow, addr]

theorem Key.data_eq_extractLsb' : k.data = k.extractLsb' 0 8 := by
  rw [BitVec.extractLsb', Nat.shiftRight_zero, data]

theorem ofLeBytes_leBytes_key : ofLeBytes (leBytes 4 k.toNat) = k.toNat := by
  have := k.isLt
  rw [ofLeBytes_leBytes, Nat.mod_eq_of_lt (by omega)]

end

/-- The bytes of an operation's band are the operation's own. -/
theorem encode_decodeOperation (cm : Bool) (op : Operation) : encode cm (decodeOperation cm op) = op.bytes cm := by
  rw [encode, decodeOperation_operation]

/-- Settles O4: a key's band is that of the operation in its fields, whose own key has them but for a read's byte. -/
theorem everyKeyEncodesBack : Obligations.EveryKeyEncodesBack := by
  intro k
  have hfields := k.toNat_eq_fields
  cases hwr : k.wr
  · have hdec : decodeKey k = decodeOperation k.cm (.read k.addr) := by simp [decodeKey, hwr]
    rw [hdec, encode_decodeOperation, Operation.bytes, ofLeBytes_leBytes_key, mkKey_toNat]
    rw [if_neg nofun, hfields, hwr, Nat.add_sub_cancel]
    exact ⟨decodeOperation_wellFormed _ _, Nat.add_zero _⟩
  · have hdec : decodeKey k = decodeOperation k.cm (.write k.addr k.data) := by simp [decodeKey, hwr]
    rw [hdec, encode_decodeOperation, Operation.bytes, ofLeBytes_leBytes_key, mkKey_toNat, if_pos rfl, hfields, hwr]
    exact ⟨decodeOperation_wellFormed _ _, rfl⟩

/-! ### Written-out words and pseudo-operations (R88, R89) -/

/-- Settles O1: each word is a closed list of bytes, which the decoder reads. -/
theorem writtenOutWordsDecode : Obligations.WrittenOutWordsDecode :=
  ⟨rfl, rfl, rfl, rfl, rfl, rfl, rfl, rfl⟩

/-- Settles O8: the lowest address of each port lies in the port's range, and `RAMB n` is below the clock's values. -/
theorem pseudoOperationsExpandToOneWrite : Obligations.PseudoOperationsExpandToOneWrite := by
  intro cm
  simp only [Pseudo.expand, decodeOperation_write]
  refine ⟨decodeWrite_ramEnablePort cm _ (by decide), decodeWrite_ramEnablePort cm _ (by decide),
    fun n => ?_, fun n => ?_,
    fun r h1 h2 => decodeWrite_rtcsel cm (by decide) (by decide) ⟨h1, h2⟩,
    fun v => decodeWrite_latchPort cm v (by decide) (by decide)⟩
  · exact ⟨_, BitVec.toNat_setWidth_of_le (by decide), decodeWrite_romBankPort cm _ (by decide) (by decide)⟩
  · have hn : (n.setWidth 8).toNat = n.toNat := BitVec.toNat_setWidth_of_le (by decide)
    exact ⟨_, hn, decodeWrite_ramb cm (by decide) (by decide) (.inl (by rw [hn]; omega))⟩

/-! ### The decode table holds each key once (R84) -/

/-- A bit `b` at place `j` agrees with the row: it is the row's there, or the row's mask leaves it out. -/
def TableRow.fits (r : TableRow) (j : Nat) (b : Bool) : Bool := (b && r.mask.getLsbD j) == r.value.getLsbD j

/-- The low `n` bits of a key agree with the row. -/
def TableRow.fitsBelow (k : Key) : Nat → TableRow → Bool
  | 0, _ => true
  | n + 1, r => r.fits n (k.getLsbD n) && r.fitsBelow k n

/-- Deciding the low `n` bits from the highest down leaves one of the rows, whichever bits they are. Where the rows do
not tell a bit's values apart, one value stands for both. -/
def leavesOne : Nat → List TableRow → Bool
  | 0, rows => rows.length == 1
  | n + 1, rows =>
      leavesOne n (rows.filter (·.fits n false)) &&
      (rows.filter (·.fits n true) == rows.filter (·.fits n false) || leavesOne n (rows.filter (·.fits n true)))

theorem opcodeTable_leavesOne : leavesOne 26 opcodeTable = true := by decide

theorem leavesOne_succ {n : Nat} {rows : List TableRow} (h : leavesOne (n + 1) rows = true) (b : Bool) :
    leavesOne n (rows.filter (·.fits n b)) = true := by
  simp only [leavesOne, Bool.and_eq_true, Bool.or_eq_true, beq_iff_eq] at h
  obtain ⟨h0, h1⟩ := h
  cases b
  · exact h0
  · obtain h1 | h1 := h1
    · rwa [h1]
    · exact h1

theorem length_filter_fitsBelow {n : Nat} {rows : List TableRow} (h : leavesOne n rows = true) (k : Key) :
    (rows.filter (·.fitsBelow k n)).length = 1 := by
  induction n generalizing rows with
  | zero => simpa [TableRow.fitsBelow, leavesOne] using h
  | succ n ih =>
    have hrest := ih (leavesOne_succ h (k.getLsbD n))
    rw [List.filter_filter] at hrest
    simpa only [TableRow.fitsBelow, Bool.and_comm] using hrest

theorem TableRow.fitsBelow_iff (r : TableRow) (k : Key) (n : Nat) :
    r.fitsBelow k n = true ↔ ∀ j < n, (k &&& r.mask).getLsbD j = r.value.getLsbD j := by
  induction n with
  | zero => simp [fitsBelow]
  | succ n ih =>
    rw [fitsBelow, Bool.and_eq_true, ih, fits, beq_iff_eq, Nat.forall_lt_succ_right, and_comm, BitVec.getLsbD_and]

theorem TableRow.holds_eq_fitsBelow (r : TableRow) (k : Key) : r.holds k = r.fitsBelow k 26 := by
  rw [Bool.eq_iff_iff, fitsBelow_iff, holds, beq_iff_eq, BitVec.eq_of_getLsbD_eq_iff]

/-- Of the rows exactly one holds a key. -/
theorem opcodeTable_holds_one (k : Key) : (opcodeTable.filter fun r => r.holds k).length = 1 := by
  simp only [TableRow.holds_eq_fitsBelow]
  exact length_filter_fitsBelow opcodeTable_leavesOne k

/-! ### The decode table names the decoder's bands (R84)

A row's keys have addresses and bytes in an interval that no test of the decoder divides, so that its first key speaks
for all of them. -/

/-- A masked match bounds a word from both sides. -/
theorem bounds_of_and_eq {w : Nat} {x m v : BitVec w} (h : x &&& m = v) :
    v.toNat ≤ x.toNat ∧ x.toNat ≤ (v ||| ~~~m).toNat := by
  subst h
  have hx : x ||| ~~~m = x &&& m ||| ~~~m := by
    ext j hj
    simp only [BitVec.getElem_or, BitVec.getElem_and, BitVec.getElem_not]
    cases x[j] <;> cases m[j] <;> rfl
  rw [BitVec.toNat_and]
  refine ⟨Nat.and_le_left, ?_⟩
  rw [← hx, BitVec.toNat_or]
  exact Nat.left_le_or

/-- A row that holds a key matches each field of it. -/
theorem TableRow.fields_of_holds {r : TableRow} {k : Key} (h : r.holds k = true) :
    (k.cm && r.mask.cm) = r.value.cm ∧ (k.wr && r.mask.wr) = r.value.wr ∧
    k.addr &&& r.mask.addr = r.value.addr ∧ k.data &&& r.mask.data = r.value.data := by
  rw [holds, beq_iff_eq] at h
  simp only [← h, Key.cm_eq_getLsbD, Key.wr_eq_getLsbD, Key.addr_eq_extractLsb', Key.data_eq_extractLsb',
    BitVec.getLsbD_and, BitVec.extractLsb'_and, and_self]

/-- No bound of the list separates the two numbers. -/
def SameSides (bounds : List Nat) (m n : Nat) : Prop := ∀ t ∈ bounds, t ≤ m ↔ t ≤ n

/-- The bounds that the decoder compares an address with, in a read (R56) and in a write (R57). -/
def addrBounds : Bool → List Nat
  | false => [0x4000, 0x8000, 0xA000, 0xC000, 0xD000, 0xE000, 0xFEA0, 0xFF00]
  | true =>
    [0x0000, 0x2000, 0x4000, 0x6000, 0x8000, 0xA000, 0xC000, 0xD000, 0xDE00, 0xE000, 0xF000, 0xFE00, 0xFEA0, 0xFF00]

/-- The bounds that the decoder compares a byte with (R123). -/
def dataBounds : List Nat := [0x08, 0x0D]

theorem SameSides.of_between {bounds : List Nat} {lo n hi : Nat} (h : SameSides bounds lo hi) (h1 : lo ≤ n)
    (h2 : n ≤ hi) : SameSides bounds lo n :=
  fun t ht => ⟨fun hlo => hlo.trans h1, fun hn => (h t ht).mpr (hn.trans h2)⟩

/-- Equal tests choose between equal bands. -/
theorem band_ite_congr {c c' : Bool} {i i' j j' : Instr} (hc : c = c') (hi : c = true → i.band = i'.band)
    (hj : j.band = j'.band) : (if c then i else j).band = (if c' then i' else j').band := by
  subst hc
  cases c
  · exact hj
  · exact hi rfl

section
variable {a a' : Addr} {v v' : Byte}

theorem inRange_congr {bounds : List Nat} {lo hi : Nat} (ha : SameSides bounds a.toNat a'.toNat)
    (h : lo ∈ bounds ∧ hi ∈ bounds) : inRange lo hi a = inRange lo hi a' := by
  simp only [inRange, ha lo h.1, ← not_le, ha hi h.2]

theorem selectsClock_congr (hv : SameSides dataBounds v.toNat v'.toNat) : selectsClock v = selectsClock v' := by
  have h8 := hv 0x08 (by decide)
  have hD := hv 0x0D (by decide)
  rw [Bool.eq_iff_iff, selectsClock_iff, selectsClock_iff]
  omega

/-- Addresses that no bound separates are read by the same band: each test of the decoder has one result. -/
theorem decodeRead_band_congr (cm : Bool) (ha : SameSides (addrBounds false) a.toNat a'.toNat) :
    (decodeRead cm a).band = (decodeRead cm a').band := by
  have inBoth {lo hi : Nat} (h : lo ∈ addrBounds false ∧ hi ∈ addrBounds false) := inRange_congr ha h
  have inColor {lo hi : Nat} (h : lo ∈ addrBounds false ∧ hi ∈ addrBounds false) := congrArg (cm && ·) (inBoth h)
  unfold decodeRead
  refine band_ite_congr (inBoth (by decide)) (fun _ => rfl) ?_
  refine band_ite_congr (inColor (by decide)) (fun _ => rfl) ?_
  refine band_ite_congr (inBoth (by decide)) (fun _ => rfl) ?_
  refine band_ite_congr (inColor (by decide)) (fun _ => rfl) ?_
  exact band_ite_congr (inBoth (by decide)) (fun _ => band_ite_congr rfl (fun _ => rfl) rfl) rfl

/-- Addresses and bytes that no bound separates are written by the same band; the byte is tested at one port only. -/
theorem decodeWrite_band_congr (cm : Bool) (ha : SameSides (addrBounds true) a.toNat a'.toNat)
    (hv : inRange 0x4000 0x6000 a = true → SameSides dataBounds v.toNat v'.toNat) :
    (decodeWrite cm a v).band = (decodeWrite cm a' v').band := by
  have inBoth {lo hi : Nat} (h : lo ∈ addrBounds true ∧ hi ∈ addrBounds true) := inRange_congr ha h
  have inColor {lo hi : Nat} (h : lo ∈ addrBounds true ∧ hi ∈ addrBounds true) := congrArg (cm && ·) (inBoth h)
  unfold decodeWrite
  refine band_ite_congr (inBoth (by decide)) (fun _ => rfl) ?_
  refine band_ite_congr (inBoth (by decide)) (fun _ => rfl) ?_
  refine band_ite_congr (inBoth (by decide))
    (fun hport => band_ite_congr (selectsClock_congr (hv hport)) (fun _ => rfl) rfl) ?_
  refine band_ite_congr (inBoth (by decide)) (fun _ => rfl) ?_
  refine band_ite_congr (inColor (by decide)) (fun _ => rfl) ?_
  refine band_ite_congr (inBoth (by decide)) (fun _ => rfl) ?_
  refine band_ite_congr (inBoth (by decide)) (fun _ => band_ite_congr (inColor (by decide)) (fun _ => rfl) rfl) ?_
  refine band_ite_congr (inColor (by decide)) (fun _ => rfl) ?_
  refine band_ite_congr (inBoth (by decide)) (fun _ => band_ite_congr (inColor (by decide)) (fun _ => rfl) rfl) ?_
  exact band_ite_congr (inBoth (by decide)) (fun _ => rfl) rfl

end

/-- Keys of one mode and direction, whose addresses and bytes no bound separates, decode to the same band. -/
theorem decodeKey_band_congr {j k : Key} (hcm : k.cm = j.cm) (hwr : k.wr = j.wr)
    (ha : SameSides (addrBounds j.wr) j.addr.toNat k.addr.toNat)
    (hd : (j.wr && inRange 0x4000 0x6000 j.addr) = true → SameSides dataBounds j.data.toNat k.data.toNat) :
    (decodeKey j).band = (decodeKey k).band := by
  rw [decodeKey, decodeKey, hcm, hwr]
  cases hj : j.wr <;> rw [hj] at ha hd
  · exact decodeRead_band_congr _ ha
  · exact decodeWrite_band_congr _ ha hd

/-- The first of a row's keys in a mode. -/
def TableRow.firstKey (r : TableRow) (cm : Bool) : Key := mkKey cm r.value.wr r.value.addr r.value.data

/-- What each row of the table is: it tells `WR`, no bound separates its first and last address, nor the bytes at the
port where they are tested, and its first key has its band, in both modes where it does not tell the mode. -/
def TableRow.Uniform (r : TableRow) : Prop :=
  r.mask.wr = true ∧
  SameSides (addrBounds r.value.wr) r.value.addr.toNat (r.value.addr ||| ~~~r.mask.addr).toNat ∧
  ((r.value.wr && inRange 0x4000 0x6000 r.value.addr) = true →
    SameSides dataBounds r.value.data.toNat (r.value.data ||| ~~~r.mask.data).toNat) ∧
  ∀ cm : Bool, (cm && r.mask.cm) = r.value.cm → (decodeKey (r.firstKey cm)).band = r.band

theorem opcodeTable_uniform : ∀ r ∈ opcodeTable, r.Uniform := by
  unfold TableRow.Uniform SameSides
  decide

/-- A row's band is the decoder's for each key that it holds. -/
theorem TableRow.band_of_holds {r : TableRow} {k : Key} (hr : r ∈ opcodeTable) (h : r.holds k = true) :
    r.band = (decodeKey k).band := by
  obtain ⟨hcm, hwr, haddr, hdata⟩ := fields_of_holds h
  obtain ⟨hmask, haddrs, hdatas, hband⟩ := opcodeTable_uniform r hr
  rw [hmask, Bool.and_true] at hwr
  have ha := bounds_of_and_eq haddr
  have hd := bounds_of_and_eq hdata
  rw [← hband k.cm hcm]
  refine decodeKey_band_congr ?_ ?_ ?_ ?_ <;> simp only [firstKey, mkKey_cm, mkKey_wr, mkKey_addr, mkKey_data]
  · exact hwr
  · exact haddrs.of_between ha.1 ha.2
  · exact fun hport => (hdatas hport).of_between hd.1 hd.2

/-- Settles O5: one row holds the key, and its band is the decoder's. -/
theorem opcodeTableIsExact : Obligations.OpcodeTableIsExact := by
  refine ⟨rfl, fun k => ?_⟩
  obtain ⟨r, hone⟩ := List.length_eq_one_iff.mp (opcodeTable_holds_one k)
  have hr : r ∈ opcodeTable.filter fun r => r.holds k := by rw [hone]; exact List.mem_singleton_self r
  obtain ⟨hmem, hholds⟩ := List.mem_filter.mp hr
  rw [hone, List.map_singleton, TableRow.band_of_holds hmem hholds]

end Sys2Proof

/-! # Proofs of the read family (spec/40_read.md)

What each read band answers, over the rules of the shared operations; the diagnostic of a read; and the pattern of the
open bus from one row to the next. -/

namespace Sys2Proof.Machine

variable {s t : State} {i : Instr} {a : Addr} {rest : List Operation}

/-! ### The ROM window (R101) -/

/-- A read inside the ROM's size takes no answer of the environment. -/
theorem State.readRom_inside_sameSurroundings {off : RomOffset} (h : off.toNat < s.session.romSize) :
    s.SameSurroundings (s.readRom off) := by
  rw [State.readRom_inside s h]
  exact ⟨rfl, rfl, rfl, rfl, rfl⟩

/-- A read at or beyond the ROM's size takes one answer of the environment. -/
theorem State.readRom_beyond_tookOneAnswer {off : RomOffset} (h : s.session.romSize ≤ off.toNat) :
    s.TookOneAnswer (s.readRom off) := by
  rw [State.readRom_beyond s h]
  exact ⟨rfl, rfl, rfl, rfl, rfl⟩

/-- Settles O17: the band is a read of the ROM store at the window's offset, whose byte comes from one of two sources. -/
theorem romWindowReadReturnsTheStoresByte : Obligations.RomWindowReadReturnsTheStoresByte := by
  intro s a h1 h2
  refine ⟨fun cm => ?_, s.startRecord.readRom (s.romOffsetOf a), s.romOffsetOf a, rfl, romOffset_toNat h1 h2,
    State.readRom_calls _ _, State.readRom_diag _ _, State.readRom_block _ _, fun hin => ?_, fun hout => ?_⟩
  · rw [decodeOperation_read, decodeRead_romWindow cm h1 h2]
  · exact ⟨(State.readRom_data _ _).trans (congrArg some (State.romData_inside s hin)),
      State.readRom_inside_sameSurroundings (s := s.startRecord) hin⟩
  · exact ⟨(State.readRom_data _ _).trans (congrArg some (State.romData_beyond s hout)),
      State.readRom_beyond_tookOneAnswer (s := s.startRecord) hout⟩

/-! ### The four forwarding bands (R102, R104, R106, R107) -/

theorem State.readMediator_tookOneAnswer (s : State) (r : MediatorRead) : s.TookOneAnswer (s.readMediator r) :=
  ⟨rfl, rfl, rfl, rfl, rfl⟩

/-- Settles O18: each of the four bands is one mediator read, and the decoder yields each where the tables admit it. -/
theorem mediatorReadsForwardTheRawAddress : Obligations.MediatorReadsForwardTheRawAddress := by
  intro s a i r hir
  have hband : i.operation = .read a ∧ exec i s = .next (s.startRecord.readMediator r) := by
    simp only [List.mem_cons, Prod.mk.injEq, List.not_mem_nil, or_false] at hir
    obtain ⟨rfl, rfl⟩ | ⟨rfl, rfl⟩ | ⟨rfl, rfl⟩ | ⟨rfl, rfl⟩ := hir <;> exact ⟨rfl, rfl⟩
  obtain ⟨hop, hexec⟩ := hband
  refine ⟨fun cm hwf => ?_, _, hexec, rfl, rfl, State.readMediator_tookOneAnswer s.startRecord r⟩
  rw [← hop, decodeOperation_of_wellFormed hwf]

/-! ### The external-RAM window (R103) -/

/-- Settles O19: a read of the window leaves the record of R103 and changes nothing else. -/
theorem externalRamReadReturnsByteOrSentinel : Obligations.ExternalRamReadReturnsByteOrSentinel := by
  intro s a h1 h2
  refine ⟨fun cm => ?_, _, exec_rdXram h1 h2, rfl, rfl, ⟨rfl, rfl, rfl, rfl, rfl⟩, fun hen => ?_, fun hdis => ?_⟩
  · rw [decodeOperation_read, decodeRead_xramWindow cm h1 h2]
  · simp [Block.xramRecord, hen]
  · simp [Block.xramRecord, hdis]

/-! ### The open bus (R105) -/

/-- Settles O20: the band records the byte of the formula and changes nothing else. -/
theorem openBusReadIsComputedFromTheAddress : Obligations.OpenBusReadIsComputedFromTheAddress := by
  intro s a h1 h2
  refine ⟨?_, s.startRecord.returnByte (openBusByte a), rfl, ?_, rfl, rfl, rfl, rfl, rfl, rfl⟩
  · rw [decodeOperation_read, decodeRead_openBus h1 h2]
  · rw [← openBusRow_eq h1, ← openBusByte_eq]
    rfl

/-- The next row's column `c` has the byte of this row's column `c + 1`: the low digit and the row have the same sum. -/
theorem openBusByte_next_row (h1 : 0xFEA0 ≤ a.toNat) (h2 : a.toNat < 0xFEF0) (hcol : a.toNat % 16 < 15) :
    openBusByte (a + 16) = openBusByte (a + 1) := by
  have hrow : (a + 16).toNat = a.toNat + 16 := by bv_omega
  have hnext : (a + 1).toNat = a.toNat + 1 := by bv_omega
  have hsum : (a.toNat + 16) % 16 + ((a.toNat + 16) / 16 - 0xFEA) =
      (a.toNat + 1) % 16 + ((a.toNat + 1) / 16 - 0xFEA) := by omega
  rw [openBusByte_eq_digits (by omega), openBusByte_eq_digits (by omega), hrow, hnext, hsum]

/-- The step of a read of the unmapped region in non-color mode. -/
theorem step_read_openBus_data (hr : s.phase = .running) (hcm : s.block.isColorMode = false)
    (hp : s.pending = .read a :: rest) (h1 : 0xFEA0 ≤ a.toNat) (h2 : a.toNat < 0xFF00) (h : step s = .next t) :
    t.out.data = some (openBusByte a) := by
  rw [step_read hr hp, hcm, decodeRead_openBus h1 h2] at h
  cases h; rfl

/-- Settles O21: both reads are of the open bus, and the pattern moves by one column from row to row. -/
theorem openBusRowsShiftByOne : Obligations.OpenBusRowsShiftByOne := by
  intro s t u a rest hr hcm h1 h2 hcol ht hu
  have hdata_t := step_read_openBus_data (s := { s with pending := .read (a + 16) :: rest }) hr hcm rfl
    (by bv_omega) (by bv_omega) ht
  have hdata_u := step_read_openBus_data (s := { s with pending := .read (a + 1) :: rest }) hr hcm rfl
    (by bv_omega) (by bv_omega) hu
  exact ⟨by rw [hdata_t, hdata_u, openBusByte_next_row h1 h2 hcol], by rw [hdata_t]; rfl⟩

/-! ### Every read (R100) -/

theorem exec_read_calls_length (hop : i.operation = .read a) (h : exec i s = .next t) : t.out.calls.length ≤ 1 := by
  obtain ⟨-, hcalls | ⟨hcalls, -⟩ | ⟨r, -, hcalls, -⟩⟩ := exec_read_record hop h <;> simp [hcalls]

/-- No read but that of the external-RAM window is diagnosed (R163). -/
theorem exec_read_diag_off_window (hop : i.operation = .read a) (hband : i.band ≠ .rdXram) (h : exec i s = .next t) :
    t.out.diag = .none := by
  cases i <;> cases hop
  case rdRomx => cases h; exact State.readRom_diag s.startRecord _
  case rdXram => exact absurd rfl hband
  all_goals cases h; rfl

/-- A read is diagnosed exactly in the external-RAM window with RAM disabled (R161). -/
theorem exec_read_diag {cm : Bool} (h : exec (decodeRead cm a) s = .next t) :
    t.out.diag =
      if 0xA000 ≤ a.toNat ∧ a.toNat < 0xC000 ∧ s.block.ramEnabled = false then .xramRdDisabled else .none := by
  by_cases hwin : 0xA000 ≤ a.toNat ∧ a.toNat < 0xC000
  · rw [decodeRead_xramWindow cm hwin.1 hwin.2, exec_rdXram hwin.1 hwin.2] at h
    cases h
    cases he : s.block.ramEnabled <;> simp [Block.xramRecord, he, hwin]
  · have hout : inRange 0xA000 0xC000 a = false := by rwa [← Bool.not_eq_true, inRange_iff]
    rw [if_neg fun hdis => hwin ⟨hdis.1, hdis.2.1⟩]
    exact exec_read_diag_off_window (decodeRead_operation cm a) (decodeRead_band_off_window cm hout).1 h

/-- Settles O22: the step's rule for the block and the surroundings, and the record's for every read. -/
theorem readsWriteNoStateOfTheBlock : Obligations.ReadsWriteNoStateOfTheBlock := by
  intro s a rest hr hp
  obtain ⟨t, ht, hphase, hsession, hpending, hblock⟩ := step_admitted hp (State.admits_running hr _)
  have hexec := (step_read hr hp).symm.trans ht
  have hop := decodeRead_operation s.block.isColorMode a
  exact ⟨t, ht, hblock, hsession, hphase.trans hr.symm, hpending, (exec_read_record hop hexec).1,
    exec_read_calls_length hop hexec, exec_read_diag (s := s.afterFetch rest) hexec⟩

end Sys2Proof.Machine

/-! # Proofs of the control-write family (spec/41_write_control.md)

A control write empties the record and writes the block as its port says (`exec_controlWrite`); each port's own band over
that shape. -/

namespace Sys2Proof.Machine

variable {a : Addr}

/-! ### Every control write (R120) -/

/-- The state after a control write: an empty record, the block given, and the surroundings as before. -/
def State.afterControlWrite (s : State) (b : Block) : State := { s.startRecord with block := b }

theorem State.afterControlWrite_sameSurroundings (s : State) (b : Block) :
    s.SameSurroundings (s.afterControlWrite b) :=
  ⟨rfl, rfl, rfl, rfl, rfl⟩

/-- The addresses below the video RAM are those of four ports (R31). -/
theorem controlPort_cases (h : a.toNat < 0x8000) :
    a.toNat < 0x2000 ∨ (0x2000 ≤ a.toNat ∧ a.toNat < 0x4000) ∨ (0x4000 ≤ a.toNat ∧ a.toNat < 0x6000) ∨
      (0x6000 ≤ a.toNat ∧ a.toNat < 0x8000) := by
  omega

theorem exec_wrRamg (s : State) (a : Addr) (v : Byte) :
    exec (.wrRamg a v) s = .next (s.afterControlWrite
      { s.block with ramEnabled := ramEnabledAfter s.session.hasRam s.block.ramEnabled v }) := rfl

theorem exec_wrRomb (s : State) (a : Addr) (v : Byte) :
    exec (.wrRomb a v) s = .next (s.afterControlWrite { s.block with currentRomBank := romBankOf v }) := rfl

theorem exec_wrRamb (s : State) (a : Addr) (v : Byte) :
    exec (.wrRamb a v) s = .next (s.afterControlWrite { s.block with currentRamBank := ramBankOf v }) := rfl

theorem exec_wrRtcsel (s : State) (a : Addr) (v : Byte) :
    exec (.wrRtcsel a v) s = .next (s.afterControlWrite s.block) := rfl

theorem exec_wrLatch (s : State) (a : Addr) (v : Byte) :
    exec (.wrLatch a v) s = .next (s.afterControlWrite s.block) := rfl

/-- A control write does to the block what its port says, and nothing else. -/
theorem exec_controlWrite (s : State) (cm : Bool) (v : Byte) (ha : a.toNat < 0x8000) :
    exec (decodeWrite cm a v) s = .next (s.afterControlWrite (s.block.afterWrite s.session a v)) := by
  obtain h1 | ⟨h1, h2⟩ | ⟨h1, h2⟩ | ⟨h1, h2⟩ := controlPort_cases ha
  · rw [decodeWrite_ramEnablePort cm v h1, Block.afterWrite_ramEnablePort _ _ v h1, exec_wrRamg]
  · rw [decodeWrite_romBankPort cm v h1 h2, Block.afterWrite_romBankPort _ _ v h1 h2, exec_wrRomb]
  · rw [decodeWrite_ramBankPort cm v h1 h2, Block.afterWrite_ramBankPort _ _ v h1 h2]
    cases selectsClock v
    · exact exec_wrRamb s a v
    · exact exec_wrRtcsel s a v
  · rw [decodeWrite_latchPort cm v h1 h2, Block.afterWrite_elsewhere _ _ v h1 (by omega), exec_wrLatch]

/-- The bytes, the mode and at least two of the three registers are as before. -/
def Block.OneRegisterAtMost (b c : Block) : Prop :=
  c.ramBanks = b.ramBanks ∧ c.isColorMode = b.isColorMode ∧
  ((c.currentRomBank = b.currentRomBank ∧ c.currentRamBank = b.currentRamBank) ∨
   (c.currentRomBank = b.currentRomBank ∧ c.ramEnabled = b.ramEnabled) ∨
   (c.currentRamBank = b.currentRamBank ∧ c.ramEnabled = b.ramEnabled))

/-- Each port has one register of its own, or none (R31). -/
theorem Block.afterWrite_oneRegisterAtMost (ses : Session) (b : Block) (v : Byte) (ha : a.toNat < 0x8000) :
    b.OneRegisterAtMost (b.afterWrite ses a v) := by
  obtain h1 | ⟨h1, h2⟩ | ⟨h1, h2⟩ | ⟨h1, h2⟩ := controlPort_cases ha
  · rw [Block.afterWrite_ramEnablePort _ _ _ h1]
    exact ⟨rfl, rfl, .inl ⟨rfl, rfl⟩⟩
  · rw [Block.afterWrite_romBankPort _ _ _ h1 h2]
    exact ⟨rfl, rfl, .inr (.inr ⟨rfl, rfl⟩)⟩
  · rw [Block.afterWrite_ramBankPort _ _ _ h1 h2]
    exact ⟨rfl, rfl, .inr (.inl ⟨rfl, rfl⟩)⟩
  · rw [Block.afterWrite_elsewhere _ _ _ h1 (by omega)]
    exact ⟨rfl, rfl, .inl ⟨rfl, rfl⟩⟩

/-- No control port lies in a range where the mode bit matters (R87). -/
theorem decodeOperation_controlWrite_modes (v : Byte) (ha : a.toNat < 0x8000) :
    decodeOperation true (.write a v) = decodeOperation false (.write a v) := by
  by_contra hne
  have hrange := (modeBitMattersOnlyInSixRanges a v).2.mp hne
  omega

/-- Settles O30: a control write is its port's update of the block, and no update reaches a second register. -/
theorem controlWritesTouchOneRegisterAtMost : Obligations.ControlWritesTouchOneRegisterAtMost := by
  intro s a v rest hr hp ha
  have hstep : step s = .next ((s.afterFetch rest).afterControlWrite (s.block.afterWrite s.session a v)) :=
    (step_write hr hp).trans (exec_controlWrite (s.afterFetch rest) _ v ha)
  obtain ⟨hbytes, hmode, hregisters⟩ := Block.afterWrite_oneRegisterAtMost s.session s.block v ha
  exact ⟨decodeOperation_controlWrite_modes v ha, _, hstep, rfl, hbytes, hmode, hregisters,
    State.afterControlWrite_sameSurroundings (s.afterFetch rest) _⟩

/-! ### Each port -/

/-- Settles O25: the latch is the low nibble's code with RAM, and its old value without. -/
theorem ramEnableWriteSetsTheLatch : Obligations.RamEnableWriteSetsTheLatch := by
  intro s a v ha
  refine ⟨fun cm => ?_, _, exec_wrRamg s a v, fun hram => ?_, fun hram => ?_, rfl, rfl,
    State.afterControlWrite_sameSurroundings s _⟩
  · rw [decodeOperation_write, decodeWrite_ramEnablePort cm v ha]
  · rw [hram]
    exact ramEnableCode_iff v
  · rw [hram]
    exact ramEnabledAfter_without_ram _ v

/-- Settles O26: the bank stored is `romBankOf v`. -/
theorem romBankWriteSelectsNonzeroBank : Obligations.RomBankWriteSelectsNonzeroBank := by
  intro s a v h1 h2
  refine ⟨fun cm => ?_, _, exec_wrRomb s a v, romBankOf_toNat v, rfl, rfl,
    State.afterControlWrite_sameSurroundings s _⟩
  rw [decodeOperation_write, decodeWrite_romBankPort cm v h1 h2]

/-- Settles O27: the bank stored is `ramBankOf v`. -/
theorem ramBankWriteSelectsTheLowTwoBits : Obligations.RamBankWriteSelectsTheLowTwoBits := by
  intro s a v h1 h2 hv
  refine ⟨fun cm => ?_, _, exec_wrRamb s a v, ramBankOf_toNat v, rfl, rfl,
    State.afterControlWrite_sameSurroundings s _⟩
  rw [decodeOperation_write, decodeWrite_ramb cm h1 h2 hv]

/-- Settles O28: both stubs leave the block as it is. -/
theorem clockStubWritesAreInert : Obligations.ClockStubWritesAreInert := by
  refine fun s a v => ⟨fun h1 h2 hv1 hv2 => ⟨fun cm => ?_, _, exec_wrRtcsel s a v, rfl, rfl, ?_⟩,
    fun h1 h2 => ⟨fun cm => ?_, _, exec_wrLatch s a v, rfl, rfl, ?_⟩⟩
  case refine_2 | refine_4 => exact State.afterControlWrite_sameSurroundings s s.block
  · rw [decodeOperation_write, decodeWrite_rtcsel cm h1 h2 ⟨hv1, hv2⟩]
  · rw [decodeOperation_write, decodeWrite_latchPort cm v h1 h2]

end Sys2Proof.Machine

/-! # Proofs of the data-write family (spec/42_write_data.md)

What every write leaves alone outside the block, its diagnostic and the mediator writes it may list; and the nine
data-write bands over these: four forward the byte once, four store both copies, one is the external-RAM window. -/

namespace Sys2Proof.Machine

variable {s t : State} {i : Instr} {a : Addr} {v : Byte}

/-! ### Every write -/

/-- No write takes an answer of the environment or touches the lifecycle, the queue or the session (R120, R140). -/
theorem exec_write_sameSurroundings (hop : i.operation = .write a v) (h : exec i s = .next t) :
    s.SameSurroundings t := by
  cases i <;> cases hop
  case wrXram => obtain ⟨m, d, rfl⟩ := exec_wrXram_next h; exact ⟨rfl, rfl, rfl, rfl, rfl⟩
  all_goals cases h; exact ⟨rfl, rfl, rfl, rfl, rfl⟩

/-- No write but that of the external-RAM window is diagnosed (R163). -/
theorem exec_write_diag_off_window (hop : i.operation = .write a v) (hband : i.band ≠ .wrXram)
    (h : exec i s = .next t) : t.out.diag = .none := by
  cases i <;> cases hop
  case wrXram => exact absurd rfl hband
  all_goals cases h; rfl

/-- A mediator write is one of three, at some address, of the byte it carries (R9). -/
theorem MediatorWrite.cases_of_byte {w : MediatorWrite} (h : w.byte = v) :
    ∃ b, w = .generic b v ∨ w = .colorVideoRAM b v ∨ w = .colorWorkRAM b v := by
  subst h
  cases w with
  | generic b _ => exact ⟨b, .inl rfl⟩
  | colorVideoRAM b _ => exact ⟨b, .inr (.inl rfl)⟩
  | colorWorkRAM b _ => exact ⟨b, .inr (.inr rfl)⟩

/-! ### Every data write (R140) -/

/-- Every register's port lies below the data writes. -/
theorem Block.afterWrite_sameRegisters (ses : Session) (b : Block) (v : Byte) (ha : 0x8000 ≤ a.toNat) :
    b.SameRegisters (b.afterWrite ses a v) := by
  simp (disch := omega) only [Block.SameRegisters, Block.afterWrite, if_neg, and_self]

/-- Settles O35: the rules of every write, at an address above the ports, and outside the window in the clause for it. -/
theorem dataWritesChangeNoRegister : Obligations.DataWritesChangeNoRegister := by
  intro s a v rest hr hp ha
  obtain ⟨t, ht⟩ := exec_next (decodeWrite s.block.isColorMode a v) (s.afterFetch rest)
  have hop := decodeWrite_operation s.block.isColorMode a v
  have hblock : t.block = s.block.afterWrite s.session a v :=
    exec_write_block (s := s.afterFetch rest) ht
  obtain ⟨hdata, ws, hcalls, hlength, hbytes⟩ := exec_write_record hop ht
  refine ⟨t, (step_write hr hp).trans ht, ?_, hdata, ?_, fun c hc => ?_, fun hwin => ⟨?_, ?_⟩,
    exec_write_sameSurroundings hop ht⟩
  · rw [hblock]
    exact Block.afterWrite_sameRegisters _ _ v ha
  · rwa [hcalls, List.length_map]
  · rw [hcalls] at hc
    obtain ⟨w, hw, rfl⟩ := List.mem_map.mp hc
    simpa only [Call.medWrite.injEq] using MediatorWrite.cases_of_byte (hbytes w hw)
  · rw [hblock, Block.afterWrite_elsewhere _ _ v (by omega) (by omega)]
  · have hout : inRange 0xA000 0xC000 a = false := by rwa [← Bool.not_eq_true, inRange_iff]
    exact exec_write_diag_off_window hop (decodeWrite_band_off_window _ v hout).2 ht

/-! ### The bands that forward the byte once (R141, R145, R148, R149) -/

/-- Settles O32: each of the four bands is one mediator write, and the decoder yields each where the tables admit it. -/
theorem singleForwardsWriteTheRawByteOnce : Obligations.SingleForwardsWriteTheRawByteOnce := by
  intro s a v i w hiw
  have hband : i.operation = .write a v ∧ exec i s = .next (s.startRecord.writeMediator w) := by
    simp only [List.mem_cons, Prod.mk.injEq, List.not_mem_nil, or_false] at hiw
    obtain ⟨rfl, rfl⟩ | ⟨rfl, rfl⟩ | ⟨rfl, rfl⟩ | ⟨rfl, rfl⟩ := hiw <;> exact ⟨rfl, rfl⟩
  obtain ⟨hop, hexec⟩ := hband
  refine ⟨fun cm hwf => ?_, _, hexec, rfl, rfl, exec_write_sameSurroundings hop hexec⟩
  rw [← hop, decodeOperation_of_wellFormed hwf]

/-! ### The external-RAM window (R142) -/

/-- Settles O33: with RAM enabled the band is a store at the window's index, and with RAM disabled a diagnostic. -/
theorem externalRamWriteStoresOneByteOrIsDropped : Obligations.ExternalRamWriteStoresOneByteOrIsDropped := by
  intro s a v hwf h1 h2
  refine ⟨fun cm => ?_, xramIndex_toNat h1 h2, ?_⟩
  · rw [decodeOperation_write, decodeWrite_xramWindow cm v h1 h2]
  cases he : s.block.ramEnabled
  case true =>
    have hexec : exec (.wrXram a v) s = .next (s.startRecord.storeXram (s.xramIndexOf a) v) :=
      execWrXram_enabled a v he
    exact ⟨_, hexec, rfl, rfl, ⟨rfl, rfl, rfl, rfl⟩, exec_write_sameSurroundings rfl hexec,
      State.storeXram_wf s.startRecord hwf _ v,
      fun _ => ⟨rfl, State.storeXram_same s.startRecord hwf _ v,
        fun j hj => State.storeXram_other s.startRecord v hj⟩,
      nofun⟩
  case false =>
    have hexec : exec (.wrXram a v) s = .next (s.startRecord.raiseDiag .xramWrDisabled) := execWrXram_disabled a v he
    exact ⟨_, hexec, rfl, rfl, ⟨rfl, rfl, rfl, rfl⟩, exec_write_sameSurroundings rfl hexec, hwf, nofun,
      fun _ => ⟨rfl, rfl⟩⟩

/-! ### The bands that store both copies (R143, R144, R146, R147) -/

/-- Settles O34: each of the four bands is two mediator writes, and the decoder yields each where the tables admit it. -/
theorem mirroredStoresWriteBothCopies : Obligations.MirroredStoresWriteBothCopies := by
  intro s a v cm i w x hwf hiwx
  have hband : i.operation = .write a v ∧
      exec i s = .next ((s.startRecord.writeMediator w).writeMediator x) := by
    simp only [List.mem_cons, Prod.mk.injEq, List.not_mem_nil, or_false] at hiwx
    obtain ⟨rfl, rfl, rfl⟩ | ⟨rfl, rfl, rfl⟩ | ⟨rfl, rfl, rfl⟩ | ⟨rfl, rfl, rfl⟩ := hiwx <;> exact ⟨rfl, rfl⟩
  obtain ⟨hop, hexec⟩ := hband
  refine ⟨?_, _, hexec, rfl, rfl, exec_write_sameSurroundings hop hexec⟩
  rw [← hop, decodeOperation_of_wellFormed hwf]

end Sys2Proof.Machine

/-! # Proofs of the exceptions family (spec/60_exceptions.md)

A meaning empties the record before it writes it, so the record of the step before is never read; and the two bands of the
external-RAM window, with RAM disabled, are the ones that are diagnosed. -/

namespace Sys2Proof.Machine

variable {s t : State} {i : Instr} {op : Operation} {rest : List Operation}

/-! ### The record of the step before (R163) -/

/-- The state as another record would have left it. -/
def State.withRecord (r : StepRecord) (s : State) : State := { s with out := r }

/-- Every meaning starts an empty record. -/
theorem exec_withRecord (i : Instr) (s : State) (r : StepRecord) : exec i (s.withRecord r) = exec i s := by
  cases i <;> rfl

theorem State.withRecord_admits (r : StepRecord) (op : Operation) : (s.withRecord r).admits op = s.admits op := by
  cases op <;> rfl

/-- Settles O14: an idle step and a meaning each start an empty record, and the lifecycle does not look at one. -/
theorem recordIsAnOutputOnly : Obligations.RecordIsAnOutputOnly := by
  intro s r
  change step (s.withRecord r) = step s
  cases hp : s.pending with
  | nil => exact (step_idle (s := s.withRecord r) hp).trans (step_idle hp).symm
  | cons op rest =>
    have hadmits := State.withRecord_admits (s := s) r op
    cases ha : s.admits op with
    | false => rw [step_refused hp ha, step_refused (s := s.withRecord r) hp (hadmits.trans ha)]
    | true =>
      rw [step_operation hp ha, step_operation (s := s.withRecord r) hp (hadmits.trans ha)]
      exact exec_withRecord _ (s.afterFetch rest) r

/-! ### Access to disabled external RAM (R161) -/

/-- Only the two bands of the external-RAM window are diagnosed, and those with RAM disabled. -/
theorem exec_diagnosed (h : exec i s = .next t) (hdiag : t.out.diag ≠ .none) :
    (i.band = .rdXram ∨ i.band = .wrXram) ∧ s.block.ramEnabled = false := by
  cases i
  case rdRomx a => cases h; exact absurd (State.readRom_diag s.startRecord _) hdiag
  case rdXram a =>
    refine ⟨.inl rfl, Bool.eq_false_iff.mpr fun he => hdiag ?_⟩
    cases (execRdXram_enabled a he).symm.trans h; rfl
  case wrXram a v =>
    refine ⟨.inr rfl, Bool.eq_false_iff.mpr fun he => hdiag ?_⟩
    cases (execWrXram_enabled a v he).symm.trans h; rfl
  all_goals cases h; exact absurd rfl hdiag

theorem step_diagnosed (h : step s = .next t) (hdiag : t.out.diag ≠ .none) :
    ∃ op rest, s.pending = op :: rest ∧ op.inXramWindow = true ∧ s.block.ramEnabled = false := by
  obtain ⟨-, rfl⟩ | ⟨op, rest, hp, -, hexec⟩ := step_cases h
  · exact absurd rfl hdiag
  · obtain ⟨hband, hdisabled⟩ := exec_diagnosed hexec hdiag
    refine ⟨op, rest, hp, ?_, hdisabled⟩
    by_contra hout
    obtain ⟨hrd, hwr⟩ := decodeOperation_band_off_window s.block.isColorMode (Bool.eq_false_iff.mpr hout)
    exact hband.elim hrd hwr

/-- Settles O39: a disabled access of either kind writes the record alone, and a diagnosed step is one of them. -/
theorem disabledRamAccessIsDiagnosedOnly : Obligations.DisabledRamAccessIsDiagnosedOnly := by
  refine ⟨fun s op rest hr hp hwin hdisabled => ?_, fun s t => step_diagnosed⟩
  cases op with
  | read a =>
    obtain ⟨h1, h2⟩ := of_decide_eq_true hwin
    rw [step_read hr hp, decodeRead_xramWindow _ h1 h2]
    exact ⟨_, execRdXram_disabled (s := s.afterFetch rest) a hdisabled, rfl, ⟨rfl, rfl, rfl, rfl, rfl⟩, rfl,
      fun _ => ⟨rfl, rfl⟩, nofun⟩
  | write a v =>
    obtain ⟨h1, h2⟩ := of_decide_eq_true hwin
    rw [step_write hr hp, decodeWrite_xramWindow _ v h1 h2]
    exact ⟨_, execWrXram_disabled (s := s.afterFetch rest) a v hdisabled, rfl, ⟨rfl, rfl, rfl, rfl, rfl⟩, rfl,
      nofun, fun _ => ⟨rfl, rfl⟩⟩
  | reset c => cases hwin

end Sys2Proof.Machine

/-! # Proofs of the reset and hazards family (spec/70_reset_and_hazards.md)

`Reset` and what no step changes; the cartridge without RAM, from the invariant's latch that is off; and color mode's
switchable work RAM, at whose generic addresses no write band that color mode admits makes a call. -/

namespace Sys2Proof.Machine

variable {s t : State} {i : Instr} {a b : Addr} {v w : Byte} {rest : List Operation}

/-! ### Reset and the session (R180) -/

/-- Settles O43: `Reset` sets the whole block, and 0 and 1 are numbers of a ROM bank. -/
theorem resetSetsAllFiveItems : Obligations.ResetSetsAllFiveItems := by
  intro s c
  have hbank : (BitVec.ofNat 7 s.session.rombReset.val).toNat = s.session.rombReset.val :=
    Nat.mod_eq_of_lt (by omega)
  exact ⟨fun cm => decodeOperation_reset cm c, _, rfl, rfl, rfl, hbank, rfl, fun _ => rfl,
    rfl, rfl, rfl, rfl, rfl, rfl, rfl⟩

/-- Settles O16: neither an idle step nor a meaning touches the session. -/
theorem noStepChangesTheSession : Obligations.NoStepChangesTheSession :=
  fun _ _ h => (step_block_cases h).left

/-! ### A cartridge without RAM (R188) -/

/-- With the latch off, a read of the window returns `0x00` (R187). -/
theorem Block.xramRecord_data_disabled {c : Block} (h : c.ramEnabled = false) :
    (c.xramRecord a).data = some 0x00 := by
  simp [Block.xramRecord, h]

/-- Settles O42: by the invariant the latch is off, and no write of its port moves it. -/
theorem withoutRamTheWindowReadsZero : Obligations.WithoutRamTheWindowReadsZero := by
  rintro s a v rest ⟨-, hoff⟩ hram hr
  obtain ⟨hlatch, -⟩ := hoff hram
  refine ⟨fun hp h1 h2 => ?_, fun hp ha => ?_⟩
  · obtain ⟨t, ht, hout⟩ := step_read_xramWindow hr hp h1 h2
    exact ⟨t, ht, by rw [hout, Block.xramRecord_data_disabled hlatch]⟩
  · obtain ⟨t, ht, -, -, -, hblock⟩ := step_admitted hp (State.admits_running hr _)
    refine ⟨t, ht, ?_⟩
    rw [hblock, Block.after, Block.afterWrite_ramEnablePort _ _ v ha, hram, ramEnabledAfter_without_ram]

/-! ### Color mode and the generic store (R191) -/

/-- Only a write makes mediator writes. -/
theorem exec_medWrite_operation {m : MediatorWrite} (h : exec i s = .next t) (hc : Call.medWrite m ∈ t.out.calls) :
    ∃ a v, i.operation = .write a v := by
  cases hop : i.operation with
  | read a =>
    obtain ⟨-, hcalls | ⟨hcalls, -⟩ | ⟨r, -, hcalls, -⟩⟩ := exec_read_record hop h
    all_goals simp [hcalls] at hc
  | write a v => exact ⟨a, v, rfl⟩
  | reset c =>
    cases i <;> cases hop
    simp [exec_reset_record h] at hc

/-- A write band that color mode admits writes the generic store outside `[0xD000, 0xDE00)`: a write there goes to color
work RAM and only its echo copy to the generic store, and the other bands' addresses, copies included, lie elsewhere. -/
theorem colorWrite_spares_switchableWorkRam (hop : i.operation = .write a w) (hwf : i.wellFormed true = true)
    (hc : Call.medWrite (.generic b v) ∈ (WriteTarget.ofBand i.band).calls a w) :
    ¬ (0xD000 ≤ b.toNat ∧ b.toNat < 0xDE00) := by
  cases i <;> cases hop
  all_goals -- the bands with no call of the generic store close here
    simp only [Instr.band, WriteTarget.ofBand, WriteTarget.calls, List.mem_cons, List.not_mem_nil, or_false,
      false_or, reduceCtorEq, Call.medWrite.injEq, MediatorWrite.generic.injEq] at hc
  all_goals
    simp only [Instr.wellFormed, Bool.not_true, Bool.true_and, Bool.false_and, Bool.or_false, decide_eq_true_eq] at hwf
  case wrWramEchoUp => obtain ⟨rfl, -⟩ | ⟨rfl, -⟩ := hc <;> bv_omega
  case wrCwramEchoUp => obtain ⟨rfl, -⟩ := hc; bv_omega
  case wrEchoDown => obtain ⟨rfl, -⟩ | ⟨rfl, -⟩ := hc <;> bv_omega
  case wrEchoCwramDown | wrUnused | wrGen => obtain ⟨rfl, -⟩ := hc; omega

/-- Settles O38: an idle step calls nothing, and the operation of any other step is a band that color mode admits. -/
theorem colorModeSparesTheGenericSwitchableWorkRam : Obligations.ColorModeSparesTheGenericSwitchableWorkRam := by
  intro s t b v hcm h hc
  obtain ⟨-, rfl⟩ | ⟨op, rest, -, -, he⟩ := step_cases h
  · cases hc
  · have hwf := decodeOperation_wellFormed s.block.isColorMode op
    rw [hcm] at he hwf
    obtain ⟨a, w, hop⟩ := exec_medWrite_operation he hc
    rw [exec_write_calls hop he] at hc
    exact colorWrite_spares_switchableWorkRam hop hwf hc

end Sys2Proof.Machine
